-- ==== Sys2Proof/Word.lean ====
section
/-! DEFINITION. The widths of the SPI controller (spec R5, R8): registers of 32 bits, transfer bytes of 8, and the
30-bit offset field of a transaction key (R70). Bit numbering is LSB-0 (R7), which is `BitVec`'s own. -/

namespace Sys2Proof

/-- `Bits32` of spec R8: every register and every value an access moves. -/
abbrev Word := BitVec 32

/-- `Bits8` of spec R8: the transfer unit. -/
abbrev Byte := BitVec 8

/-- The `off` field of a transaction key (spec R70): a byte offset from `BASE_ADDR`. -/
abbrev Offset := BitVec 30

end Sys2Proof
end

