-- ==== Sys2Proof/Machine/Operands.lean ====
section
/-! DEFINITION. The operand forms of the operations (spec R8, R9, R72): one bit of a register as a boolean, a bit assignment,
the low byte of a written value, and zero extension. -/

namespace Sys2Proof.Machine

/-- `v[i]` (spec R9): bit i as a boolean, LSB-0 (R7). -/
def bit (v : Word) (i : Nat) : Bool := v.getLsbD i

/-- `v[i] <- b` (spec R9). -/
def setBit (v : Word) (i : Nat) (b : Bool) : Word :=
  if b then v ||| (1#32 <<< i) else v &&& ~~~(1#32 <<< i)

/-- `v[7:0]` (spec R59, R72): the outgoing byte of a DR write. -/
def lowByte (v : Word) : Byte := v.extractLsb' 0 8

/-- `zext_32(b)` (spec R9, R73). -/
def zext32 (b : Byte) : Word := b.setWidth 32

end Sys2Proof.Machine
end

