-- ==== Sys2Proof/Config.lean ====
section
/-! DEFINITION. What the spec leaves to the platform (the OPEN parameters of R5) and to the peer (the reply of R146).
The constants of `Sys2Proof.Config` have no body, so no proof can see a value of them (log 3, log 7). -/

namespace Sys2Proof

/-- The two lane orders a byte-addressed host bus may use, the parameter `BUS_BYTE_ORDER` of spec R5 and R59.
PRESUMED: the spec names the parameter and not its values (log 22). Inside the block no byte order applies (R59). -/
inductive ByteOrder where
  /-- The lowest host address carries bits 7:0. -/
  | little
  /-- The lowest host address carries bits 31:24. -/
  | big
  deriving DecidableEq, Repr, Inhabited

/-- The OPEN parameters of spec R5: where and how a platform places the block. `spareWords` counts the routed 4-byte
offsets from 0x14 on, so that `REGION_SIZE` is at least 0x14, a multiple of 4 and at most 2^30 (R53, R70, D9) whatever
`spareWords` is, and every such size has its own `spareWords`. -/
structure Platform where
  /-- `BASE_ADDR` (R52, D10). -/
  baseAddr : Nat
  /-- `REGION_SIZE` beyond the five registers, in words (R53, D9). -/
  spareWords : Fin 268435452
  /-- `IRQ_LINE`: the host input that `irq_level` drives (R176, D11). -/
  irqLine : Nat
  /-- `CS0_LINE`: the host input that `cs0_level` drives (R183, D11). -/
  cs0Line : Nat
  /-- `CS1_LINE`: the host input that `cs1_level` drives (R183, D11). -/
  cs1Line : Nat
  /-- `BUS_BYTE_ORDER` (R59, D12). -/
  byteOrder : ByteOrder
  deriving DecidableEq, Repr, Inhabited

/-- `REGION_SIZE` of spec R53: the bytes the bus routes to the block. -/
def Platform.regionSize (p : Platform) : Nat := p.spareWords.val * 4 + 0x14

/-- The platform the block stands in: OPEN (spec R5, log 7). No body. -/
opaque Config.platform : Platform

/-- FREE VALUE (spec R146(c), D14, log 3): the byte the peer answers at exchange number `call` to the outgoing byte
`out`, with the two chip-select outputs as given, where the peer has no reply lined up. No body: any byte. -/
opaque Config.exchangeReply (call : Nat) (out : Byte) (cs0Level cs1Level : Bool) : Byte

end Sys2Proof
end

