-- ==== Sys2Proof/Syntax.lean ====
section
/-! DEFINITION. The operations of the block (spec 30_encoding.md R75 and R76; spec/opcode_table.json): one constructor per
row, carrying the operands that the operation's rule names. -/

namespace Sys2Proof

/-- An operation of the block. The host issues it; the block performs it as one atomic step (spec R56). -/
inductive Instr where
  /-- RD_CR1 (R102). -/
  | rdCr1
  /-- RD_CR2 (R104). -/
  | rdCr2
  /-- RD_SR (R106). -/
  | rdSr
  /-- RD_DR (R150). -/
  | rdDr
  /-- RD_CSCTRL (R108). -/
  | rdCsctrl
  /-- WR_CR1 (R103) of the value `v`. -/
  | wrCr1 (v : Word)
  /-- WR_CR2 (R105) of the value `v`. -/
  | wrCr2 (v : Word)
  /-- WR_SR (R107) of the value `v`. -/
  | wrSr (v : Word)
  /-- WR_DR (R142) of the value `v`. -/
  | wrDr (v : Word)
  /-- WR_CSCTRL (R131) of the value `v`. -/
  | wrCsctrl (v : Word)
  /-- RD_INV (R109): a read at an aligned offset that is no register. -/
  | rdInv (off : Offset)
  /-- WR_INV (R110): a write of `v` at an aligned offset that is no register. -/
  | wrInv (off : Offset) (v : Word)
  /-- RESET (R200). -/
  | reset
  deriving DecidableEq, Repr

end Sys2Proof
end

