-- ==== Sys2Proof/WellFormed.lean ====
section
/-! DEFINITION. When an operation is one the spec admits (R55, R109, R110) and one the bus of a given region routes to the
block (R53). -/

namespace Sys2Proof

/-- The offsets of the five registers (spec R50): CR1, CR2, SR, DR, CSCTRL. -/
def registerOffsets : List Offset := [0x00, 0x04, 0x08, 0x0C, 0x10]

/-- `off[1:0] = 0` (spec R55). -/
def alignedOffset (off : Offset) : Bool := off.extractLsb' 0 2 == 0

/-- The offsets RD_INV and WR_INV may carry (spec R109, R110): aligned and no register's. -/
def invalidOffset (off : Offset) : Bool := alignedOffset off && !registerOffsets.contains off

/-- An operation with operands its rule admits, in whatever region. -/
def Instr.wellFormed : Instr → Bool
  | .rdInv off => invalidOffset off
  | .wrInv off _ => invalidOffset off
  | .rdCr1 | .rdCr2 | .rdSr | .rdDr | .rdCsctrl => true
  | .wrCr1 _ | .wrCr2 _ | .wrSr _ | .wrDr _ | .wrCsctrl _ => true
  | .reset => true

/-- The offset an operation accesses; none for RESET (spec R76). -/
def Instr.offset? : Instr → Option Offset
  | .rdCr1 | .wrCr1 _ => some 0x00
  | .rdCr2 | .wrCr2 _ => some 0x04
  | .rdSr | .wrSr _ => some 0x08
  | .rdDr | .wrDr _ => some 0x0C
  | .rdCsctrl | .wrCsctrl _ => some 0x10
  | .rdInv off | .wrInv off _ => some off
  | .reset => none

/-- The bus of a region of `region` bytes delivers this operation to the block (spec R53). -/
def Instr.routed (region : Nat) (i : Instr) : Bool :=
  match i.offset? with
  | some off => decide (off.toNat < region)
  | none => true

end Sys2Proof
end

