-- ==== Sys2Proof/Decode.lean ====
section
/-! DEFINITION. Decoding of a request, the transaction key with its attributes (spec R70 to R77), and the encoder.
`decode` is R75's pseudocode; `encode` is written from the keys of R76. -/

namespace Sys2Proof

/-- An operation as the host issues it (spec R70): the transaction key and its attributes. `size` and `data` are looked at
only where the key's kind has them (R75; log 18). -/
structure Request where
  /-- The transaction key `K`. -/
  key : Word
  /-- The access width in bytes: an attribute of READ and WRITE. -/
  size : Nat
  /-- The value to write: an attribute of WRITE. -/
  data : Word
  deriving DecidableEq, Repr

/-- Why a request is refused (spec R75, R77, R172). All are SAFE: the model stops, and the spec gives a refused request no
step. -/
inductive Reject where
  /-- `kind = 0b11`, or a RESET key with a nonzero offset (R77(a)). -/
  | reservedKind
  /-- An access of a width other than 4 (R54, R77(b)). -/
  | width
  /-- An access at an offset that is no multiple of 4 (R55, R77(b)). -/
  | misaligned
  /-- An access at an offset outside the region (R53, R77(d)). -/
  | notRouted
  deriving DecidableEq, Repr

/-- The `kind` field of a key (spec R70). -/
inductive Kind where
  /-- 0b00. -/
  | read
  /-- 0b01. -/
  | write
  /-- 0b10. -/
  | reset
  /-- 0b11. -/
  | reserved
  deriving DecidableEq, Repr

/-- `K[31:30]` (spec R70). -/
def keyKind (k : Word) : Kind :=
  if k.extractLsb' 30 2 = 0b00#2 then .read
  else if k.extractLsb' 30 2 = 0b01#2 then .write
  else if k.extractLsb' 30 2 = 0b10#2 then .reset
  else .reserved

/-- `K[29:0]` (spec R70). -/
def keyOffset (k : Word) : Offset := k.extractLsb' 0 30

/-- The key of a kind and an offset (spec R70). -/
def makeKey (kind : Kind) (off : Offset) : Word :=
  match kind with
  | .read => (0b00#2 ++ off : BitVec 32)
  | .write => (0b01#2 ++ off : BitVec 32)
  | .reset => (0b10#2 ++ off : BitVec 32)
  | .reserved => (0b11#2 ++ off : BitVec 32)

/-- The checks R75 makes on a READ or a WRITE, in its order: width, alignment, region. -/
def admission (region size : Nat) (off : Offset) : Option Reject :=
  if size ≠ 4 then some .width
  else if alignedOffset off = false then some .misaligned
  else if region ≤ off.toNat then some .notRouted
  else none

/-- The READ rows of R75: exact matches first, RD_INV the default. -/
def readAt (off : Offset) : Instr :=
  if off = 0x00 then .rdCr1
  else if off = 0x04 then .rdCr2
  else if off = 0x08 then .rdSr
  else if off = 0x0C then .rdDr
  else if off = 0x10 then .rdCsctrl
  else .rdInv off

/-- The WRITE rows of R75: exact matches first, WR_INV the default. -/
def writeAt (off : Offset) (v : Word) : Instr :=
  if off = 0x00 then .wrCr1 v
  else if off = 0x04 then .wrCr2 v
  else if off = 0x08 then .wrSr v
  else if off = 0x0C then .wrDr v
  else if off = 0x10 then .wrCsctrl v
  else .wrInv off v

/-- `decode(K, size, data)` of spec R75, for a region of `region` bytes (`REGION_SIZE`). Total: every request decodes or is
refused by name. -/
def decode (region : Nat) (r : Request) : Except Reject Instr :=
  match keyKind r.key with
  | .reserved => .error .reservedKind
  | .reset => if keyOffset r.key = 0 then .ok .reset else .error .reservedKind
  | .read =>
    match admission region r.size (keyOffset r.key) with
    | some why => .error why
    | none => .ok (readAt (keyOffset r.key))
  | .write =>
    match admission region r.size (keyOffset r.key) with
    | some why => .error why
    | none => .ok (writeAt (keyOffset r.key) r.data)

/-- The transaction key of an operation: the column `K` of spec R76. -/
def Instr.key : Instr → Word
  | .rdCr1 => 0x00000000
  | .rdCr2 => 0x00000004
  | .rdSr => 0x00000008
  | .rdDr => 0x0000000C
  | .rdCsctrl => 0x00000010
  | .rdInv off => makeKey .read off
  | .wrCr1 _ => 0x40000000
  | .wrCr2 _ => 0x40000004
  | .wrSr _ => 0x40000008
  | .wrDr _ => 0x4000000C
  | .wrCsctrl _ => 0x40000010
  | .wrInv off _ => makeKey .write off
  | .reset => 0x80000000

/-- The value a WRITE carries (spec R70, R72); none for a READ and for RESET. -/
def Instr.data? : Instr → Option Word
  | .wrCr1 v | .wrCr2 v | .wrSr v | .wrDr v | .wrCsctrl v | .wrInv _ v => some v
  | .rdCr1 | .rdCr2 | .rdSr | .rdDr | .rdCsctrl | .rdInv _ | .reset => none

/-- Has the `size` attribute: a READ or a WRITE (spec R70). -/
def Instr.isAccess (i : Instr) : Bool := i.offset?.isSome

/-- The request that issues an operation (spec R70, R76, R79): `size = 4` for an access, and the attributes a kind does not
have at zero (log 18). -/
def encode (i : Instr) : Request where
  key := i.key
  size := if i.isAccess then 4 else 0
  data := i.data?.getD 0

/-- A row of spec/opcode_table.json: a key belongs to it when `key & mask = pattern`. -/
structure TableRow where
  /-- The row's "match". -/
  pattern : Word
  /-- The row's "mask". -/
  mask : Word
  /-- The row's "priority": 1 for an exact row, 0 for a default one. -/
  priority : Nat
  deriving DecidableEq, Repr

/-- The row of spec/opcode_table.json that an operation stands for (R76). -/
def Instr.row : Instr → TableRow
  | .rdCr1 => ⟨0x00000000, 0xFFFFFFFF, 1⟩
  | .rdCr2 => ⟨0x00000004, 0xFFFFFFFF, 1⟩
  | .rdSr => ⟨0x00000008, 0xFFFFFFFF, 1⟩
  | .rdDr => ⟨0x0000000C, 0xFFFFFFFF, 1⟩
  | .rdCsctrl => ⟨0x00000010, 0xFFFFFFFF, 1⟩
  | .wrCr1 _ => ⟨0x40000000, 0xFFFFFFFF, 1⟩
  | .wrCr2 _ => ⟨0x40000004, 0xFFFFFFFF, 1⟩
  | .wrSr _ => ⟨0x40000008, 0xFFFFFFFF, 1⟩
  | .wrDr _ => ⟨0x4000000C, 0xFFFFFFFF, 1⟩
  | .wrCsctrl _ => ⟨0x40000010, 0xFFFFFFFF, 1⟩
  | .rdInv _ => ⟨0x00000000, 0xC0000003, 0⟩
  | .wrInv _ _ => ⟨0x40000000, 0xC0000003, 0⟩
  | .reset => ⟨0x80000000, 0xFFFFFFFF, 1⟩

/-- The exact rows of spec/opcode_table.json, those of priority 1. -/
def exactRows : List TableRow :=
  [Instr.row .rdCr1, Instr.row .rdCr2, Instr.row .rdSr, Instr.row .rdDr, Instr.row .rdCsctrl,
   Instr.row (.wrCr1 0), Instr.row (.wrCr2 0), Instr.row (.wrSr 0), Instr.row (.wrDr 0), Instr.row (.wrCsctrl 0),
   Instr.row .reset]

/-- A key belongs to a row of the table. -/
def TableRow.covers (row : TableRow) (k : Word) : Bool := k &&& row.mask == row.pattern

/-- The largest region a key can address (spec R70: `REGION_SIZE <= 2^30`). -/
def maxRegion : Nat := 2 ^ 30

/-- The request of a table word (log 8): the key in bits 31:0, the attribute `size` at 4 (the only admitted width, R54), and
the attribute `data` in the bits above the key, where `nbits` gives none of them zero. -/
def tableRequest (nbits w : Nat) : Request where
  key := BitVec.ofNat 32 (w % 2 ^ nbits)
  size := 4
  data := BitVec.ofNat 32 (w % 2 ^ nbits / 2 ^ 32)

/-- What the decoder reads from a word of spec/opcode_table.json, on a bus that routes every offset a key can hold
(log 8: the table's words name no region). -/
def decodeTableWord (nbits w : Nat) : Option Instr :=
  match decode maxRegion (tableRequest nbits w) with
  | .ok i => some i
  | .error _ => none

end Sys2Proof
end

