-- ==== Sys2Proof/Machine/State.lean ====
section
/-! DEFINITION. The state of the machine: the controller's record of spec R22, the observation of R147, and the outside
world (the operations the host has issued, what the peer has lined up, the platform's parameters) as plain data. -/

namespace Sys2Proof.Machine

/-- The controller's state record, field by field as spec R22 lists it ("No other state exists"). The derived booleans and
the outputs are stored, as the pseudocode assigns them; that they equal their definitions (R31, R33, R34) is the invariant
`Controller.Consistent` of Safety.lean (log 10). -/
structure Controller where
  /-- CR1 (R23). -/
  cr1 : Word
  /-- CR2 (R24). -/
  cr2 : Word
  /-- SR (R25). -/
  sr : Word
  /-- DR, write side (R26). -/
  dr : Word
  /-- DR, read side: `rx_data` (R27). -/
  rxData : Byte
  /-- CSCTRL (R28). -/
  csctrl : Word
  /-- `spe` (R30). -/
  spe : Bool
  /-- `mstr` (R30). -/
  mstr : Bool
  /-- `cs0_en` (R30). -/
  cs0En : Bool
  /-- `cs0_act` (R30). -/
  cs0Act : Bool
  /-- `cs1_en` (R30). -/
  cs1En : Bool
  /-- `cs1_act` (R30). -/
  cs1Act : Bool
  /-- `cs0_level`, active-low output (R32). -/
  cs0Level : Bool
  /-- `cs1_level`, active-low output (R32). -/
  cs1Level : Bool
  /-- `irq_level`, active-high output (R32). -/
  irqLevel : Bool
  deriving DecidableEq, Repr

/-- The direction of an access in a diagnostic (spec R170). -/
inductive Dir where
  /-- READ. -/
  | read
  /-- WRITE. -/
  | write
  deriving DecidableEq, Repr

/-- What the host observes of one operation beside read results and levels (spec R147, R170). -/
inductive Event where
  /-- `Xfer(out, in, cs0_level, cs1_level)`: one call of the exchange primitive (R147). -/
  | xfer (out inn : Byte) (cs0Level cs1Level : Bool)
  /-- `Diag(dir, off)`: one InvalidRegisterAccess (R170). -/
  | diag (dir : Dir) (off : Offset)
  deriving DecidableEq, Repr

/-- What the peer's side does when the exchange primitive is called (log 3, log 4). -/
inductive PeerAct where
  /-- It returns a byte: what the contract asks (spec R146(b)). -/
  | reply (b : Byte)
  /-- It issues the request `r` to this block before it returns: forbidden (spec R148). -/
  | reenters (r : Request)
  /-- It never returns: a hang on the host's side (spec R210). -/
  | neverReturns
  deriving DecidableEq, Repr

/-- The machine's state. `ctl` is the block; the other fields are the observation and the outside world. -/
structure State where
  /-- The controller's record (R22). -/
  ctl : Controller
  /-- What the last operation returned: a value for a READ, none for a WRITE and RESET (R70, R73; log 5). -/
  result : Option Word
  /-- The observed events, oldest first (R147, R170; log 6). -/
  events : List Event
  /-- The operations the host has issued and the block has not performed, oldest first (R60; log 1). -/
  pending : List Request
  /-- What the peer has lined up for the next exchanges, first one first (R146; log 3). -/
  peer : List PeerAct
  /-- How many times the exchange primitive was called: the model's own counter, at which the free reply is drawn (log 3). -/
  calls : Nat
  /-- The platform's OPEN parameters (R5; log 7). No operation changes them. -/
  platform : Platform
  deriving DecidableEq, Repr

/-- A stuck state: the machine has no step. -/
inductive Fault where
  /-- Raised by WR_DR when the exchange primitive it calls never returns (spec R210: "A model has no step for it, which is
  a hang on the host's side"; I9 `stuck`). SAFE: the DR write never completes on the hardware either (log 4). -/
  | exchangeNeverReturns
  deriving DecidableEq, Repr

/-- A request the spec refuses: it has no step. -/
inductive Refusal where
  /-- An instruction whose meaning is not written. Raised only by arms of `exec`; SAFE. -/
  | notModelled (mnemonic : String)
  /-- Raised by `step` on a request that R75 refuses, with its reason (R172: the block never sees it; log 19). SAFE: the
  model stops where the host may go on. -/
  | notAdmitted (why : Reject)
  /-- Raised by WR_DR when the exchange primitive it calls accesses or resets this block (spec R148: "A model refuses it:
  an access issued during `Exchange` has no step"; I10; log 4). SAFE: the model stops where the host may go on. -/
  | reentrantAccess
  deriving DecidableEq, Repr

/-- The reset values of spec R41. -/
def Controller.reset : Controller where
  cr1 := 0x00000000
  cr2 := 0x00000000
  sr := 0x00000002
  dr := 0x00000000
  rxData := 0x00
  csctrl := 0x00000000
  spe := false
  mstr := false
  cs0En := false
  cs0Act := false
  cs1En := false
  cs1Act := false
  cs0Level := true
  cs1Level := true
  irqLevel := false

/-- The raw construction state of spec R201, outputs zeroed with the rest. It is never the starting point of a run (R202;
log 13). -/
def Controller.constructed : Controller where
  cr1 := 0x00000000
  cr2 := 0x00000000
  sr := 0x00000002
  dr := 0x00000000
  rxData := 0x00
  csctrl := 0x00000000
  spe := false
  mstr := false
  cs0En := false
  cs0Act := false
  cs1En := false
  cs1Act := false
  cs0Level := false
  cs1Level := false
  irqLevel := false

/-- The machine right after reset, the initial state of every run (spec R202). Nothing has been observed, nothing is
issued, the peer has nothing lined up (so that every reply is a free value), and the platform is the one without a body. -/
def State.reset : State where
  ctl := Controller.reset
  result := none
  events := []
  pending := []
  peer := []
  calls := 0
  platform := Config.platform

end Sys2Proof.Machine
end

