-- ==== Sys2Proof/Machine/Flags.lean ====
section
/-! DEFINITION. The bits of the registers (spec R23, R24, R25, R28) and every function of them: the effective chip-selects,
the transfer gate and the interrupt function (R10), and the SR updates (R107, R143, R150). -/

namespace Sys2Proof.Machine

/-- CR1.SPE (R23). -/
abbrev cr1Spe : Nat := 6
/-- CR1.MSTR (R23). -/
abbrev cr1Mstr : Nat := 2
/-- CR2.TXEIE (R24). -/
abbrev cr2Txeie : Nat := 7
/-- CR2.RXNEIE (R24). -/
abbrev cr2Rxneie : Nat := 6
/-- CR2.ERRIE (R24). -/
abbrev cr2Errie : Nat := 5
/-- SR.RXNE (R25). -/
abbrev srRxne : Nat := 0
/-- SR.TXE (R25). -/
abbrev srTxe : Nat := 1
/-- SR.UDR (R25). Nothing sets it (R35; log 12). -/
abbrev srUdr : Nat := 2
/-- SR.OVR (R25). -/
abbrev srOvr : Nat := 3
/-- SR.BSY (R25). -/
abbrev srBsy : Nat := 7
/-- CSCTRL.CS0EN (R28). -/
abbrev csctrlCs0En : Nat := 0
/-- CSCTRL.CS1EN (R28). -/
abbrev csctrlCs1En : Nat := 1
/-- CSCTRL.CS0ACT (R28). -/
abbrev csctrlCs0Act : Nat := 4
/-- CSCTRL.CS1ACT (R28). -/
abbrev csctrlCs1Act : Nat := 5

/-- `EffCS0(s)` (spec R10). -/
def effCs0 (c : Controller) : Bool := c.cs0En && c.cs0Act

/-- `EffCS1(s)` (spec R10). -/
def effCs1 (c : Controller) : Bool := c.cs1En && c.cs1Act

/-- `TransferOK(s)` (spec R10, R141): enabled, master, and exactly one chip-select effective. -/
def transferOk (c : Controller) : Bool := c.spe && c.mstr && (effCs0 c ^^ effCs1 c)

/-- `IrqFn(cr2, sr)` (spec R10, R173). -/
def irqFn (cr2 sr : Word) : Bool :=
  (bit cr2 cr2Txeie && bit sr srTxe) || (bit cr2 cr2Rxneie && bit sr srRxne)
    || (bit cr2 cr2Errie && (bit sr srUdr || bit sr srOvr))

/-- `W1C_MASK` (spec R107): OVR and UDR. -/
def w1cMask : Word := 0x0000000C

/-- The SR update of an SR write (spec R107): write-1-to-clear over OVR and UDR only. -/
def srAfterWrite (sr v : Word) : Word := sr &&& ~~~(v &&& w1cMask)

/-- The SR update of a DR read (spec R150): RXNE and OVR are cleared. -/
def srAfterDrRead (sr : Word) : Word := setBit (setBit sr srRxne false) srOvr false

/-- Transfer step 1 (spec R143): TXE cleared, BSY set. -/
def srTransferBegins (sr : Word) : Word := setBit (setBit sr srTxe false) srBsy true

/-- Transfer step 3 (spec R143, R144): OVR set if RXNE was already set. -/
def srOverrun (sr : Word) : Word := if bit sr srRxne then setBit sr srOvr true else sr

/-- Transfer step 5 (spec R143): RXNE set, TXE set, BSY cleared. -/
def srTransferEnds (sr : Word) : Word := setBit (setBit (setBit sr srRxne true) srTxe true) srBsy false

end Sys2Proof.Machine
end

