-- ==== Sys2Proof/Machine/Ops.lean ====
section
/-! DEFINITION. The operations the meanings share: the chip-select and interrupt logic (spec R130, R175), the byte exchange
(R146, R147), the transfer (R143), the diagnostic (R170), how an operation ends (R70), and how the next request is taken
from the queue (R60). The block takes no trap (R179): the one exceptional event is the diagnostic, `raiseDiag`. -/

namespace Sys2Proof.Machine

/-! ### The output logic -/

/-- `ChipSelectLogic(s)` (spec R130). -/
def chipSelectLogic (c : Controller) : Controller :=
  { c with cs0Level := !effCs0 c, cs1Level := !effCs1 c }

/-- `InterruptLogic(s)` (spec R175). -/
def interruptLogic (c : Controller) : Controller :=
  { c with irqLevel := irqFn c.cr2 c.sr }

/-! ### How an operation ends -/

/-- The end of a READ (spec R70): it returns the value `v`. -/
def answer (v : Word) (s : State) : Host.Outcome State Fault Refusal := .next { s with result := some v }

/-- The end of a WRITE or RESET (spec R70): it returns nothing. -/
def done (s : State) : Host.Outcome State Fault Refusal := .next { s with result := none }

/-! ### The diagnostic -/

/-- `raise Diag(dir, off)` (spec R170): one event is appended; no field of the controller and no output changes. -/
def raiseDiag (dir : Dir) (off : Offset) (s : State) : State :=
  { s with events := s.events ++ [.diag dir off] }

/-! ### The byte exchange -/

/-- What the peer does at the next call with outgoing byte `out`: what it has lined up, else a byte that is a free value,
drawn at the call's number (spec R146(c), (d); log 3). -/
def peerAct (s : State) (out : Byte) : PeerAct :=
  match s.peer with
  | act :: _ => act
  | [] => .reply (Config.exchangeReply s.calls out s.ctl.cs0Level s.ctl.cs1Level)

/-- The state after an exchange that sent `out` and received `inn` (spec R147): the call is counted, the peer's act is used
up, and the event is recorded with the output levels at the call. -/
def recordExchange (s : State) (out inn : Byte) : State :=
  { s with
    peer := s.peer.tail
    calls := s.calls + 1
    events := s.events ++ [.xfer out inn s.ctl.cs0Level s.ctl.cs1Level] }

/-- `Exchange(out)` (spec R146): the incoming byte and the state after the call. A call from inside is refused (R148), and
a call that never returns leaves the machine stuck (R210). -/
def exchange (s : State) (out : Byte) : Host.Outcome (Byte × State) Fault Refusal :=
  match peerAct s out with
  | .reply inn => .next (inn, recordExchange s out inn)
  | .reenters _ => .refused .reentrantAccess
  | .neverReturns => .fault .exchangeNeverReturns

/-! ### The transfer -/

/-- Step 1 of a transfer (spec R143). -/
def transferBegins (s : State) : State :=
  { s with ctl := { s.ctl with sr := srTransferBegins s.ctl.sr } }

/-- Steps 3 to 6 of a transfer (spec R143), with the received byte: the overrun test, `rx_data`, the completion flags, and
the interrupt output last. -/
def transferEnds (s : State) (inn : Byte) : State :=
  { s with
    ctl := interruptLogic { s.ctl with sr := srTransferEnds (srOverrun s.ctl.sr), rxData := inn } }

/-- `Transfer(s, out)` (spec R143): steps 1 to 6. -/
def transfer (s : State) (out : Byte) : Host.Outcome State Fault Refusal :=
  match exchange (transferBegins s) out with
  | .next (inn, s') => .next (transferEnds s' inn)
  | .fault why => .fault why
  | .refused why => .refused why

/-! ### Reset -/

/-- The assignments of RESET (spec R200), then the two output logics. -/
def resetController (c : Controller) : Controller :=
  interruptLogic (chipSelectLogic
    { c with
      cr1 := 0x00000000, cr2 := 0x00000000, csctrl := 0x00000000
      sr := 0x00000002, dr := 0x00000000, rxData := 0x00
      spe := false, mstr := false
      cs0En := false, cs0Act := false, cs1En := false, cs1Act := false })

/-! ### The queue of issued operations -/

/-- The next request the host has issued, and the state with it taken from the queue (spec R60; log 1). -/
def fetch (s : State) : Option (Request × State) :=
  match s.pending with
  | [] => none
  | r :: rest => some (r, { s with pending := rest })

/-- Nothing is issued: the block takes no step of its own (spec R6), so nothing changes (log 2). -/
def idle (s : State) : Host.Outcome State Fault Refusal := .next s

/-- A request that R75 refuses has no step (spec R172; log 19). -/
def refuse (why : Reject) : Host.Outcome State Fault Refusal := .refused (.notAdmitted why)

/-- `s` with the table word `w` issued first, on a bus that routes it: a request outside the five registers is routed by
the largest region (log 8). -/
def issueTableWord (s : State) (nbits w : Nat) : State :=
  let r := tableRequest nbits w
  { s with
    pending := r :: s.pending
    platform :=
      if (keyOffset r.key).toNat < 0x14 then s.platform else { s.platform with spareWords := 268435451 } }

end Sys2Proof.Machine
end

