-- ==== Sys2Proof/Machine/ChipSelect.lean ====
section
/-! DEFINITION. The CSCTRL write (spec 41_chip_select.md). -/

namespace Sys2Proof.Machine

/-- WR_CSCTRL (spec R131): stores the raw value, derives the four booleans, and recomputes the chip-select outputs. It
starts no transfer (R134). -/
def execWrCsctrl (v : Word) (s : State) : Host.Outcome State Fault Refusal :=
  done { s with
    ctl := chipSelectLogic
      { s.ctl with
        csctrl := v
        cs0En := bit v csctrlCs0En, cs1En := bit v csctrlCs1En
        cs0Act := bit v csctrlCs0Act, cs1Act := bit v csctrlCs1Act } }

end Sys2Proof.Machine
end

