-- ==== Sys2Proof/Machine/RegisterFile.lean ====
section
/-! DEFINITION. The Register File operations (spec 40_register_file.md): reads of CR1, CR2, SR and CSCTRL, writes of CR1, CR2
and SR, and accesses at offsets that are no register. -/

namespace Sys2Proof.Machine

/-- RD_CR1 (spec R102). -/
def execRdCr1 (s : State) : Host.Outcome State Fault Refusal := answer s.ctl.cr1 s

/-- RD_CR2 (spec R104). -/
def execRdCr2 (s : State) : Host.Outcome State Fault Refusal := answer s.ctl.cr2 s

/-- RD_SR (spec R106): no side effect (log 11). -/
def execRdSr (s : State) : Host.Outcome State Fault Refusal := answer s.ctl.sr s

/-- RD_CSCTRL (spec R108): the raw register, not the output levels. -/
def execRdCsctrl (s : State) : Host.Outcome State Fault Refusal := answer s.ctl.csctrl s

/-- WR_CR1 (spec R103): stores the raw value and derives `spe` and `mstr`; no output is recomputed. -/
def execWrCr1 (v : Word) (s : State) : Host.Outcome State Fault Refusal :=
  done { s with ctl := { s.ctl with cr1 := v, spe := bit v cr1Spe, mstr := bit v cr1Mstr } }

/-- WR_CR2 (spec R105): stores the raw value and recomputes the interrupt output. -/
def execWrCr2 (v : Word) (s : State) : Host.Outcome State Fault Refusal :=
  done { s with ctl := interruptLogic { s.ctl with cr2 := v } }

/-- WR_SR (spec R107): clears OVR and UDR where the value has a 1, and recomputes the interrupt output on every write
(log 16). -/
def execWrSr (v : Word) (s : State) : Host.Outcome State Fault Refusal :=
  done { s with ctl := interruptLogic { s.ctl with sr := srAfterWrite s.ctl.sr v } }

/-- RD_INV (spec R109): one diagnostic, and 0 is returned. -/
def execRdInv (off : Offset) (s : State) : Host.Outcome State Fault Refusal :=
  answer 0x00000000 (raiseDiag .read off s)

/-- WR_INV (spec R110): one diagnostic, and the value is dropped. -/
def execWrInv (off : Offset) (_v : Word) (s : State) : Host.Outcome State Fault Refusal :=
  done (raiseDiag .write off s)

end Sys2Proof.Machine
end

