-- ==== Sys2Proof/Machine/Reset.lean ====
section
/-! DEFINITION. The reset operation (spec 70_reset_and_hazards.md R200). -/

namespace Sys2Proof.Machine

/-- RESET (spec R200): the controller's record returns to its reset values. It calls no exchange and raises no diagnostic;
what has been observed, what is still issued and the peer are the outside world's and stay (log 24). -/
def execReset (s : State) : Host.Outcome State Fault Refusal :=
  done { s with ctl := resetController s.ctl }

end Sys2Proof.Machine
end

