-- ==== Sys2Proof/Machine/TransferEngine.lean ====
section
/-! DEFINITION. The two DR operations (spec 42_transfer_engine.md). -/

namespace Sys2Proof.Machine

/-- WR_DR (spec R142): the gate is tested on the state before the write, all 32 bits are stored (log 14), and the transfer
of the low byte runs if the gate held. A gated write does nothing else. -/
def execWrDr (v : Word) (s : State) : Host.Outcome State Fault Refusal :=
  let stored : State := { s with ctl := { s.ctl with dr := v } }
  if transferOk s.ctl then
    match transfer stored (lowByte v) with
    | .next s' => done s'
    | .fault why => .fault why
    | .refused why => .refused why
  else done stored

/-- RD_DR (spec R150): returns `rx_data`, clears RXNE and OVR, and recomputes the interrupt output. `rx_data` stays. -/
def execRdDr (s : State) : Host.Outcome State Fault Refusal :=
  answer (zext32 s.ctl.rxData) { s with ctl := interruptLogic { s.ctl with sr := srAfterDrRead s.ctl.sr } }

end Sys2Proof.Machine
end

