-- ==== Sys2Proof/Machine/Dispatch.lean ====
section
/-! DEFINITION. What each operation does: one arm per row of spec/opcode_table.json (spec R76). -/

namespace Sys2Proof.Machine

/-- Performs one operation (spec R76), as one atomic step (R56). -/
def exec (i : Instr) (s : State) : Host.Outcome State Fault Refusal :=
  match i with
  | .rdCr1 => Sys2Proof.Machine.execRdCr1 s
  | .rdCr2 => Sys2Proof.Machine.execRdCr2 s
  | .rdSr => Sys2Proof.Machine.execRdSr s
  | .rdDr => Sys2Proof.Machine.execRdDr s
  | .rdCsctrl => Sys2Proof.Machine.execRdCsctrl s
  | .wrCr1 v => Sys2Proof.Machine.execWrCr1 v s
  | .wrCr2 v => Sys2Proof.Machine.execWrCr2 v s
  | .wrSr v => Sys2Proof.Machine.execWrSr v s
  | .wrDr v => Sys2Proof.Machine.execWrDr v s
  | .wrCsctrl v => Sys2Proof.Machine.execWrCsctrl v s
  | .rdInv off => Sys2Proof.Machine.execRdInv off s
  | .wrInv off v => Sys2Proof.Machine.execWrInv off v s
  | .reset => Sys2Proof.Machine.execReset s

end Sys2Proof.Machine
end

