-- ==== Sys2Proof/Machine/Step.lean ====
section
/-! DEFINITION. One step: the next request the host has issued is decoded (spec R75) and performed (R76). The host's
requests form one order (R60), and each is performed whole (R56). -/

namespace Sys2Proof.Machine

/-- One step of the machine. Nothing issued: nothing changes (spec R6). A request that R75 refuses: no step (R172). -/
def step (s : State) : Host.Outcome State Fault Refusal :=
  match fetch s with
  | none => idle s
  | some (r, s') =>
    match decode s'.platform.regionSize r with
    | .error why => refuse why
    | .ok i => exec i s'

/-- `s` with the table word issued as the operation that the next step performs (log 8). -/
def State.withFetchWord (s : State) (nbits w : Nat) : State := issueTableWord s nbits w

end Sys2Proof.Machine
end

