-- ==== Sys2Proof/Machine/HostBus.lean ====
section
/-! DEFINITION. The block's side of the host interface (spec R52, R59, R176, R212): which host addresses reach the block and
as which request, how an issued request joins the order of operations, how a bus of byte lanes carries a value, and which
host inputs the outputs drive. The bus itself is out of scope (R4(a)); no step uses this file. -/

namespace Sys2Proof.Machine

/-- The offset at which a host address reaches the block, if it does (spec R52). -/
def route (p : Platform) (a : Nat) : Option Offset :=
  if p.baseAddr ≤ a ∧ a < p.baseAddr + p.regionSize then some (BitVec.ofNat 30 (a - p.baseAddr)) else none

/-- The value of four byte lanes, lowest host address first (the parameter `BUS_BYTE_ORDER` of spec R59; log 22). -/
def wordOfLanes (order : ByteOrder) (b0 b1 b2 b3 : Byte) : Word :=
  match order with
  | .little => (b3 ++ b2 ++ b1 ++ b0 : BitVec 32)
  | .big => (b0 ++ b1 ++ b2 ++ b3 : BitVec 32)

/-- The four byte lanes of a value, lowest host address first (spec R59; log 22). -/
def lanesOfWord (order : ByteOrder) (v : Word) : List Byte :=
  match order with
  | .little => [v.extractLsb' 0 8, v.extractLsb' 8 8, v.extractLsb' 16 8, v.extractLsb' 24 8]
  | .big => [v.extractLsb' 24 8, v.extractLsb' 16 8, v.extractLsb' 8 8, v.extractLsb' 0 8]

/-- The request of a host read of `size` bytes at the host address `a`; none where the bus does not deliver it (R52). -/
def hostRead (p : Platform) (a size : Nat) : Option Request :=
  (route p a).map fun off => { key := makeKey .read off, size := size, data := 0 }

/-- The value the bytes of a host write carry: the block admits four of them only (R54), so that no other count's value is
ever looked at. -/
def writtenValue (order : ByteOrder) : List Byte → Word
  | [b0, b1, b2, b3] => wordOfLanes order b0 b1 b2 b3
  | _ => 0

/-- The request of a host write of `bytes`, lowest address first, at the host address `a` (R52). -/
def hostWrite (p : Platform) (a : Nat) (bytes : List Byte) : Option Request :=
  (route p a).map fun off =>
    { key := makeKey .write off, size := bytes.length, data := writtenValue p.byteOrder bytes }

/-- The host issues a request: it is performed after every one issued before it (spec R60; log 1). -/
def submit (s : State) (r : Request) : State := { s with pending := s.pending ++ [r] }

/-- The host inputs the block drives, with their levels (spec R176, R183). -/
def hostLines (s : State) : List (Nat × Bool) :=
  [(s.platform.irqLine, s.ctl.irqLevel), (s.platform.cs0Line, s.ctl.cs0Level), (s.platform.cs1Line, s.ctl.cs1Level)]

end Sys2Proof.Machine
end

