-- ==== Sys2Proof/Machine/Pseudo.lean ====
section
/-! DEFINITION. The pseudo-operations of spec R80: shorthand that expands into operations of the block, and no operations
of it. -/

namespace Sys2Proof.Machine

/-- The names of spec R80. -/
inductive Pseudo where
  /-- `enable_master`. -/
  | enableMaster
  /-- `disable`. -/
  | disable
  /-- `select0`. -/
  | select0
  /-- `select1`. -/
  | select1
  /-- `deselect`. -/
  | deselect
  /-- `clr_err`. -/
  | clrErr
  /-- `xfer <b>`. -/
  | xfer (b : Word)
  deriving DecidableEq, Repr

/-- The column "expansion" of spec R80. -/
def expandPseudo : Pseudo → List Instr
  | .enableMaster => [.wrCr1 0x00000044]
  | .disable => [.wrCr1 0x00000000]
  | .select0 => [.wrCsctrl 0x00000011]
  | .select1 => [.wrCsctrl 0x00000022]
  | .deselect => [.wrCsctrl 0x00000000]
  | .clrErr => [.wrSr 0x0000000C]
  | .xfer b => [.wrDr b, .rdDr]

end Sys2Proof.Machine
end

