-- ==== Sys2Proof/Machine/Snapshot.lean ====
section
/-! DEFINITION. The fields a save/restore facility keeps (spec R40) and what a restore does with them (D24; log 20). The
mechanism is out of scope (R4(c)); no step uses this file. -/

namespace Sys2Proof.Machine

/-- The field list of spec R40, without the version tag (I15). -/
structure Snapshot where
  /-- CR1. -/
  cr1 : Word
  /-- CR2. -/
  cr2 : Word
  /-- SR. -/
  sr : Word
  /-- DR, write side. -/
  dr : Word
  /-- CSCTRL. -/
  csctrl : Word
  /-- `rx_data`. -/
  rxData : Byte
  /-- `spe`. -/
  spe : Bool
  /-- `mstr`. -/
  mstr : Bool
  /-- `cs0_en`. -/
  cs0En : Bool
  /-- `cs0_act`. -/
  cs0Act : Bool
  /-- `cs1_en`. -/
  cs1En : Bool
  /-- `cs1_act`. -/
  cs1Act : Bool
  deriving DecidableEq, Repr

/-- Saves the fields of spec R40. -/
def takeSnapshot (c : Controller) : Snapshot where
  cr1 := c.cr1
  cr2 := c.cr2
  sr := c.sr
  dr := c.dr
  csctrl := c.csctrl
  rxData := c.rxData
  spe := c.spe
  mstr := c.mstr
  cs0En := c.cs0En
  cs0Act := c.cs0Act
  cs1En := c.cs1En
  cs1Act := c.cs1Act

/-- Restores a snapshot into a controller (spec D24): the registers are set, the six booleans are derived from `cr1` and
`csctrl` (R30) whatever the snapshot holds for them, and both output logics run. -/
def restoreSnapshot (x : Snapshot) (c : Controller) : Controller :=
  interruptLogic (chipSelectLogic
    { c with
      cr1 := x.cr1, cr2 := x.cr2, sr := x.sr, dr := x.dr, csctrl := x.csctrl, rxData := x.rxData
      spe := bit x.cr1 cr1Spe, mstr := bit x.cr1 cr1Mstr
      cs0En := bit x.csctrl csctrlCs0En, cs1En := bit x.csctrl csctrlCs1En
      cs0Act := bit x.csctrl csctrlCs0Act, cs1Act := bit x.csctrl csctrlCs1Act })

end Sys2Proof.Machine
end

