-- ==== Sys2Proof/Machine/Observe.lean ====
section
/-! DEFINITION. What an observer of the block sees (spec R39, R147): the exchange events, the diagnostics, the last read
result and the output levels. -/

namespace Sys2Proof.Machine

/-- The event is a call of the exchange primitive. -/
def Event.isExchange : Event → Bool
  | .xfer _ _ _ _ => true
  | .diag _ _ => false

/-- The sequence of exchange events (spec R147). -/
def exchanges (s : State) : List Event := s.events.filter Event.isExchange

/-- The sequence of diagnostics (spec R147, R170). -/
def diagnostics (s : State) : List Event := s.events.filter fun e => !e.isExchange

/-- The observation of a run at an observable point (spec R147). -/
structure Observation where
  /-- The exchange events so far. -/
  exchanges : List Event
  /-- The diagnostics so far. -/
  diagnostics : List Event
  /-- What the last operation returned. -/
  result : Option Word
  /-- The level of `cs0_level`. -/
  cs0Level : Bool
  /-- The level of `cs1_level`. -/
  cs1Level : Bool
  /-- The level of `irq_level`. -/
  irqLevel : Bool
  deriving DecidableEq, Repr

/-- The observation of a state (spec R147). -/
def observe (s : State) : Observation where
  exchanges := exchanges s
  diagnostics := diagnostics s
  result := s.result
  cs0Level := s.ctl.cs0Level
  cs1Level := s.ctl.cs1Level
  irqLevel := s.ctl.irqLevel

end Sys2Proof.Machine
end

