-- ==== Sys2Proof/Safety.lean ====
section
/-! DEFINITION. What holds at every observable point of a run (spec R31, R33, R34, R36) and of the record of what was
observed (R109, R110, R146). -/

namespace Sys2Proof.Machine

/-- The derived booleans and the outputs equal their definitions: spec R31 (the six booleans of R30), R33 and R34. -/
structure Controller.Consistent (c : Controller) : Prop where
  /-- `spe = cr1[6]`. -/
  spe_eq : c.spe = bit c.cr1 6
  /-- `mstr = cr1[2]`. -/
  mstr_eq : c.mstr = bit c.cr1 2
  /-- `cs0_en = csctrl[0]`. -/
  cs0En_eq : c.cs0En = bit c.csctrl 0
  /-- `cs1_en = csctrl[1]`. -/
  cs1En_eq : c.cs1En = bit c.csctrl 1
  /-- `cs0_act = csctrl[4]`. -/
  cs0Act_eq : c.cs0Act = bit c.csctrl 4
  /-- `cs1_act = csctrl[5]`. -/
  cs1Act_eq : c.cs1Act = bit c.csctrl 5
  /-- R33 for CS0. -/
  cs0Level_eq : c.cs0Level = !effCs0 c
  /-- R33 for CS1. -/
  cs1Level_eq : c.cs1Level = !effCs1 c
  /-- R34. -/
  irqLevel_eq : c.irqLevel = irqFn c.cr2 c.sr

/-- SR holds one of three values: spec R36. -/
def Controller.SrLegal (c : Controller) : Prop :=
  c.sr = 0x00000002 ∨ c.sr = 0x00000003 ∨ c.sr = 0x0000000B

/-- What holds of the controller at every observable point after reset (spec R31, R33, R34, R36). -/
structure Controller.Inv (c : Controller) : Prop where
  /-- R31, R33, R34. -/
  consistent : c.Consistent
  /-- R36. -/
  srLegal : c.SrLegal

/-- An event the block may cause: an exchange has exactly one chip-select output asserted (spec R146(d)), and a diagnostic
names an aligned offset inside the region that is no register's (R109, R110, R170). -/
def Event.Legal (p : Platform) : Event → Prop
  | .xfer _ _ cs0Level cs1Level => cs0Level ≠ cs1Level
  | .diag _ off => invalidOffset off = true ∧ off.toNat < p.regionSize

/-- The record of a run is sound: every event is legal, and the exchange primitive was called once for each exchange event
(spec R146(a), R147). -/
structure State.RecordSound (s : State) : Prop where
  /-- Every event is legal. -/
  legal : ∀ e ∈ s.events, e.Legal s.platform
  /-- One call, one event. -/
  counted : s.calls = (exchanges s).length

/-- What holds at every observable point of a run. -/
structure State.Inv (s : State) : Prop where
  /-- Of the controller. -/
  ctl : s.ctl.Inv
  /-- Of the record. -/
  record : s.RecordSound

/-- The peer's next act, if it has one lined up, is a byte: it keeps the contract of spec R146(b) and R148 at the next
call. -/
def PeerReady (s : State) : Prop := ∀ act, s.peer.head? = some act → ∃ b, act = .reply b

end Sys2Proof.Machine
end

