-- ==== Sys2Proof/Certificates/Slice0/Obligations.lean ====
section
/-! DEFINITION. The statements for the provers. Each docstring names the rule of spec/ it formalises. A statement about an
operation gives its whole next state, so that what the operation leaves unchanged (R101) is part of it. The reply of the
peer is universally quantified or the free value `Config.exchangeReply`; no statement rests on a value of it.

The forms in which every statement speaks are the model's own, and are not named again in each docstring: `result` (log entry
5), `events` (log entry 6), `pending` (log entry 1), `peer` and `calls` (log entry 3), `platform` (log entry 7), the stored
booleans and outputs (log entry 10), and outputs as levels (log entry 15, the spec's own D17). A docstring names every log entry
on which the truth of its statement about the block rests. -/

open Sys2Proof Sys2Proof.Machine

/-! ### Encoding -/

/-- R75, whole: the refusals in their order, the exact rows, the default rows, and that a refused operation has no step. The
key is read as a number: `kind` is `K / 2^30` and `off` is `K % 2^30` (R70). The keys (D2, log entry 26) and the refusals of
other widths and of misaligned offsets (D7, D8, log entry 19) are the spec's own decisions; that a refused request ends the
run in a named refusal is log entry 19 (DEDUCED). The region's size is an OPEN parameter (D9, log entry 7), and an attribute
that a key's kind does not have is ignored (log entry 18, DEDUCED). -/
def Obligations.DecodeFollowsTheRuleOfDecoding : Prop :=
  ∀ (region : Nat) (r : Request),
    (3 * 2 ^ 30 ≤ r.key.toNat → decode region r = .error .reservedKind) ∧
    (2 ^ 31 < r.key.toNat → r.key.toNat < 3 * 2 ^ 30 → decode region r = .error .reservedKind) ∧
    (r.key.toNat = 2 ^ 31 → decode region r = .ok .reset) ∧
    (r.key.toNat < 2 ^ 31 → r.size ≠ 4 → decode region r = .error .width) ∧
    (r.key.toNat < 2 ^ 31 → r.size = 4 → r.key.toNat % 4 ≠ 0 → decode region r = .error .misaligned) ∧
    (r.key.toNat < 2 ^ 31 → r.size = 4 → r.key.toNat % 4 = 0 → region ≤ r.key.toNat % 2 ^ 30 →
      decode region r = .error .notRouted) ∧
    (r.key.toNat < 2 ^ 30 → r.size = 4 → r.key.toNat % 4 = 0 → r.key.toNat < region →
      decode region r = .ok
        (if r.key.toNat = 0x00 then .rdCr1
         else if r.key.toNat = 0x04 then .rdCr2
         else if r.key.toNat = 0x08 then .rdSr
         else if r.key.toNat = 0x0C then .rdDr
         else if r.key.toNat = 0x10 then .rdCsctrl
         else .rdInv (BitVec.ofNat 30 r.key.toNat))) ∧
    (∀ off, r.key.toNat = 2 ^ 30 + off → off < 2 ^ 30 → r.size = 4 → off % 4 = 0 → off < region →
      decode region r = .ok
        (if off = 0x00 then .wrCr1 r.data
         else if off = 0x04 then .wrCr2 r.data
         else if off = 0x08 then .wrSr r.data
         else if off = 0x0C then .wrDr r.data
         else if off = 0x10 then .wrCsctrl r.data
         else .wrInv (BitVec.ofNat 30 off) r.data)) ∧
    (∀ (why : Reject) (s : State) (rest : List Request), decode region r = .error why → s.pending = r :: rest →
      s.platform.regionSize = region → step s = .refused (.notAdmitted why))

/-- R70, R72, R75, R76: the request that encodes a well-formed operation decodes back to it, with every operand, on every
bus that routes it. The keys are the spec's own decision D2 (log entry 26), and the encoder's zero for an attribute that the
kind does not have is log entry 18 (DEDUCED). -/
def Obligations.DecodeInvertsEncode : Prop :=
  ∀ (region : Nat) (i : Instr), i.wellFormed = true → i.routed region = true → decode region (encode i) = .ok i

/-- R70, R75, R76, the other direction: what decodes is well-formed and routed, its key is the operation's one key, an
access has the width 4, and a write's data is the operation's value. The keys are the spec's own decision D2 (log entry 26),
the width 4 the spec's decision D7 (log entry 19). -/
def Obligations.DecodedRequestCarriesItsOperation : Prop :=
  ∀ (region : Nat) (r : Request) (i : Instr), decode region r = .ok i →
    i.wellFormed = true ∧ i.routed region = true ∧ r.key = i.key ∧ (i.isAccess = true → r.size = 4) ∧
      ∀ v, i.data? = some v → r.data = v

/-- R76, opcode_table.json: a decoded key belongs to its operation's row, a default row is taken only where no exact row
covers the key, and no key belongs to two exact rows. The keys are the spec's own decision D2 (log entry 26). -/
def Obligations.DecodedKeyBelongsToItsTableRow : Prop :=
  (∀ (region : Nat) (r : Request) (i : Instr), decode region r = .ok i →
    i.row.covers r.key = true ∧ (i.row.priority = 0 → ∀ row ∈ exactRows, row.covers r.key = false)) ∧
  ∀ (k : Word), ∀ a ∈ exactRows, ∀ b ∈ exactRows, a.covers k = true → b.covers k = true → a = b

/-- R76 and the decode vectors of 95_test_vectors.md section 2.1: the printed keys decode to the printed operations. The
keys are the spec's own decision D2 (log entry 26), the refusals the spec's decisions D7 and D8 (log entry 19). -/
def Obligations.PrintedKeysDecodeAsPrinted : Prop :=
  decode maxRegion ⟨0x00000000, 4, 0⟩ = .ok .rdCr1 ∧
  decode maxRegion ⟨0x0000000C, 4, 0⟩ = .ok .rdDr ∧
  decode maxRegion ⟨0x40000010, 4, 0x31⟩ = .ok (.wrCsctrl 0x31) ∧
  decode maxRegion ⟨0x40000FFC, 4, 7⟩ = .ok (.wrInv 0xFFC 7) ∧
  decode 0xFFC ⟨0x40000FFC, 4, 7⟩ = .error .notRouted ∧
  decode maxRegion ⟨0x0000000D, 4, 0⟩ = .error .misaligned ∧
  decode maxRegion ⟨0x4000000C, 2, 0⟩ = .error .width ∧
  decode maxRegion ⟨0x80000000, 0, 0⟩ = .ok .reset ∧
  decode maxRegion ⟨0x80000004, 0, 0⟩ = .error .reservedKind ∧
  decode maxRegion ⟨0xC0000000, 4, 0⟩ = .error .reservedKind

/-! ### The step -/

/-- R60, R75: with a request issued that decodes to `i`, the step is `exec i` on the state with that request taken. That
issued requests stand in a queue is log entry 1 (DEDUCED); their one order is the spec's own decision D28 (log entry 21). -/
def Obligations.StepPerformsTheDecodedOperation : Prop :=
  ∀ (s : State) (r : Request) (rest : List Request) (i : Instr), s.pending = r :: rest →
    decode s.platform.regionSize r = .ok i → step s = exec i { s with pending := rest }

/-- R6, the model's choice for the state with nothing issued (log 2): nothing changes. That nothing arrives from outside in
slave mode either is the spec's own decision D29 (log entry 17, DESIGN CHOICE, unsafe). -/
def Obligations.NothingIssuedNothingChanges : Prop :=
  ∀ s : State, s.pending = [] → step s = .next s

/-- R56, R60: a step performs exactly one request, the oldest, as a whole: nothing issued and nothing changed (a step at all
by the model's choice, log 2), or the oldest request decoded, performed and gone. The platform's parameters never change
(R5). That issued requests stand in a queue is log entry 1 (DEDUCED); their one order is the spec's own decision D28 (log
entry 21). -/
def Obligations.StepPerformsExactlyTheOldestRequest : Prop :=
  ∀ s t : State, step s = .next t →
    t.platform = s.platform ∧
    ((s.pending = [] ∧ t = s) ∨
      ∃ r i, s.pending = r :: t.pending ∧ decode s.platform.regionSize r = .ok i ∧
        exec i { s with pending := t.pending } = .next t)

/-! ### The register file -/

/-- R102, R104, R108: a read of CR1, CR2 or CSCTRL returns the raw register and changes nothing; whatever was written,
reserved bits too, comes back. -/
def Obligations.ReadsReturnTheRawRegister : Prop :=
  ∀ (s : State) (v : Word),
    encode .rdCr1 = ⟨0x00000000, 4, 0⟩ ∧ encode .rdCr2 = ⟨0x00000004, 4, 0⟩ ∧ encode .rdCsctrl = ⟨0x00000010, 4, 0⟩ ∧
    exec .rdCr1 s = .next { s with result := some s.ctl.cr1 } ∧
    exec .rdCr2 s = .next { s with result := some s.ctl.cr2 } ∧
    exec .rdCsctrl s = .next { s with result := some s.ctl.csctrl } ∧
    (∀ t, exec (.wrCr1 v) s = .next t → exec .rdCr1 t = .next { t with result := some v }) ∧
    (∀ t, exec (.wrCr2 v) s = .next t → exec .rdCr2 t = .next { t with result := some v }) ∧
    (∀ t, exec (.wrCsctrl v) s = .next t → exec .rdCsctrl t = .next { t with result := some v })

/-- R106: a read of SR returns the raw register and changes nothing. That it changes nothing is the spec's own decision D5
against a sentence of the source that claims a side effect and defines none: log entry 11 (DESIGN CHOICE, unsafe). At every
observable point (the invariant) the value is one of three (R36, the spec's own inference, with UDR 0 by the spec's decision
D25, log entry 12, DESIGN CHOICE, unsafe), so that TXE reads 1 and BSY reads 0. -/
def Obligations.SrReadHasNoSideEffect : Prop :=
  ∀ s : State,
    encode .rdSr = ⟨0x00000008, 4, 0⟩ ∧
    exec .rdSr s = .next { s with result := some s.ctl.sr } ∧
    (s.ctl.Inv →
      (s.ctl.sr = 0x00000002 ∨ s.ctl.sr = 0x00000003 ∨ s.ctl.sr = 0x0000000B) ∧
        s.ctl.sr.getLsbD 1 = true ∧ s.ctl.sr.getLsbD 7 = false)

/-- R103: a write of CR1 stores the raw value and derives `spe` and `mstr`; nothing else changes. That a write which clears
MSTR starts no other behaviour is the spec's own decision D29 (log entry 17, DESIGN CHOICE, unsafe). -/
def Obligations.Cr1WriteStoresAndDerives : Prop :=
  ∀ (v : Word) (s : State),
    encode (.wrCr1 v) = ⟨0x40000000, 4, v⟩ ∧
    exec (.wrCr1 v) s =
      .next { s with result := none, ctl := { s.ctl with cr1 := v, spe := v.getLsbD 6, mstr := v.getLsbD 2 } }

/-- R105: a write of CR2 stores the raw value and recomputes the interrupt output, written out bit by bit (R10); nothing
else changes. At every observable point a value with bit 7 set asserts the output. This last clause is R105's corner case,
which rests on R36, the spec's own inference. -/
def Obligations.Cr2WriteStoresAndRecomputesInterrupt : Prop :=
  ∀ (v : Word) (s : State),
    encode (.wrCr2 v) = ⟨0x40000004, 4, v⟩ ∧
    exec (.wrCr2 v) s =
      .next { s with
        result := none
        ctl := { s.ctl with
          cr2 := v
          irqLevel := (v.getLsbD 7 && s.ctl.sr.getLsbD 1) || (v.getLsbD 6 && s.ctl.sr.getLsbD 0)
            || (v.getLsbD 5 && (s.ctl.sr.getLsbD 2 || s.ctl.sr.getLsbD 3)) } } ∧
    (s.ctl.Inv → v.getLsbD 7 = true → ∀ t, exec (.wrCr2 v) s = .next t → t.ctl.irqLevel = true)

/-- R107: a write of SR completes; of every bit of SR it clears exactly OVR and UDR where the value has a 1 and leaves every
other bit; the interrupt output is recomputed from the new SR; nothing else changes. That every SR write recomputes it is
the spec's own decision D6: log entry 16 (DESIGN CHOICE). -/
def Obligations.SrWriteClearsOnlyOvrAndUdr : Prop :=
  ∀ (v : Word) (s : State), encode (.wrSr v) = ⟨0x40000008, 4, v⟩ ∧ ∃ (sr : Word) (irq : Bool),
    exec (.wrSr v) s = .next { s with result := none, ctl := { s.ctl with sr := sr, irqLevel := irq } } ∧
    (∀ k, sr.getLsbD k = (s.ctl.sr.getLsbD k && !((k == 2 || k == 3) && v.getLsbD k))) ∧
    irq = ((s.ctl.cr2.getLsbD 7 && s.ctl.sr.getLsbD 1) || (s.ctl.cr2.getLsbD 6 && s.ctl.sr.getLsbD 0)
      || (s.ctl.cr2.getLsbD 5 && ((s.ctl.sr.getLsbD 2 && !v.getLsbD 2) || (s.ctl.sr.getLsbD 3 && !v.getLsbD 3))))

/-- R109, R110: an access at an offset that is no register completes: a read returns 0, a write is dropped, one diagnostic is
appended, and nothing else changes. What the diagnostic records is the spec's own decision D16: log entry 6 (DESIGN CHOICE);
for an offset that no request decodes to, it is log entry 25 (DESIGN CHOICE). -/
def Obligations.InvalidAccessIsADiagnosticOnly : Prop :=
  ∀ (off : Offset) (v : Word) (s : State),
    (encode (.rdInv off)).key.toNat = off.toNat ∧ (encode (.rdInv off)).size = 4 ∧
    (encode (.wrInv off v)).key.toNat = 2 ^ 30 + off.toNat ∧ (encode (.wrInv off v)).size = 4 ∧
    (encode (.wrInv off v)).data = v ∧
    exec (.rdInv off) s =
      .next { s with result := some 0x00000000, events := s.events ++ [.diag .read off] } ∧
    exec (.wrInv off v) s =
      .next { s with result := none, events := s.events ++ [.diag .write off] }

/-- R101, whole: each field of the record, each output and each event changes only by the operations whose pseudocode says
so; the exchange primitive is called by WR_DR only. What stands outside the block is untouched. That a read of SR changes
nothing is the spec's own decision D5: log entry 11 (DESIGN CHOICE, unsafe). That no byte is received in slave mode, so that
`rxData` and SR do not change so, is the spec's own decision D29 (log entry 17, DESIGN CHOICE, unsafe); that reset leaves
what stands outside the block is log entry 24 (DEDUCED). -/
def Obligations.FieldsChangeOnlyByTheirOperations : Prop :=
  ∀ (i : Instr) (s t : State), exec i s = .next t →
    ((∀ v, i ≠ .wrCr1 v) → i ≠ .reset →
      t.ctl.cr1 = s.ctl.cr1 ∧ t.ctl.spe = s.ctl.spe ∧ t.ctl.mstr = s.ctl.mstr) ∧
    ((∀ v, i ≠ .wrCr2 v) → i ≠ .reset → t.ctl.cr2 = s.ctl.cr2) ∧
    ((∀ v, i ≠ .wrCsctrl v) → i ≠ .reset →
      t.ctl.csctrl = s.ctl.csctrl ∧ t.ctl.cs0En = s.ctl.cs0En ∧ t.ctl.cs0Act = s.ctl.cs0Act ∧
        t.ctl.cs1En = s.ctl.cs1En ∧ t.ctl.cs1Act = s.ctl.cs1Act ∧ t.ctl.cs0Level = s.ctl.cs0Level ∧
        t.ctl.cs1Level = s.ctl.cs1Level) ∧
    ((∀ v, i ≠ .wrDr v) → i ≠ .reset → t.ctl.dr = s.ctl.dr ∧ t.ctl.rxData = s.ctl.rxData) ∧
    ((∀ v, i ≠ .wrSr v) → (∀ v, i ≠ .wrDr v) → i ≠ .rdDr → i ≠ .reset → t.ctl.sr = s.ctl.sr) ∧
    ((∀ v, i ≠ .wrCr2 v) → (∀ v, i ≠ .wrSr v) → (∀ v, i ≠ .wrDr v) → i ≠ .rdDr → i ≠ .reset →
      t.ctl.irqLevel = s.ctl.irqLevel) ∧
    ((∀ v, i ≠ .wrDr v) → (∀ off, i ≠ .rdInv off) → (∀ off v, i ≠ .wrInv off v) → t.events = s.events) ∧
    ((∀ off, i ≠ .rdInv off) → (∀ off v, i ≠ .wrInv off v) → diagnostics t = diagnostics s) ∧
    ((∀ v, i ≠ .wrDr v) → t.calls = s.calls ∧ t.peer = s.peer) ∧
    t.pending = s.pending ∧ t.platform = s.platform

/-- R58(a), (c), (d): reads of CR1, CR2, SR and CSCTRL and writes of CR1, CR2, CSCTRL and SR are idempotent: the operation
completes, and a second time it leaves everything as the first did. For RD_SR that rests on log entry 11 (DESIGN CHOICE, the
spec's own D5). R58 is the spec's own inference; that an output emitted again at its level is no change is the spec's
decision D17 (log entry 15, DESIGN CHOICE). -/
def Obligations.RegisterOperationsAreIdempotent : Prop :=
  ∀ (v : Word) (s : State) (i : Instr),
    i ∈ [Instr.rdCr1, .rdCr2, .rdSr, .rdCsctrl, .wrCr1 v, .wrCr2 v, .wrCsctrl v, .wrSr v] →
      ∃ t, exec i s = .next t ∧ exec i t = .next t

/-! ### The chip-select logic -/

/-- R131 (with R130): a write of CSCTRL stores the raw value, derives the four booleans and recomputes the two outputs;
nothing else changes, so that no transfer starts. -/
def Obligations.CsctrlWriteDrivesTheChipSelects : Prop :=
  ∀ (v : Word) (s : State),
    encode (.wrCsctrl v) = ⟨0x40000010, 4, v⟩ ∧
    exec (.wrCsctrl v) s =
      .next { s with
        result := none
        ctl := { s.ctl with
          csctrl := v
          cs0En := v.getLsbD 0, cs1En := v.getLsbD 1, cs0Act := v.getLsbD 4, cs1Act := v.getLsbD 5
          cs0Level := !(v.getLsbD 0 && v.getLsbD 4), cs1Level := !(v.getLsbD 1 && v.getLsbD 5) } }

/-- R133: with both chip-selects effective both outputs are asserted, and every DR write is then gated: it stores `dr` and
does nothing else. That the gated write stores all 32 bits of `dr` is not R133 but R142 and the spec's own decision D4: log
entry 14 (DESIGN CHOICE); no claim may read `dr[31:8]`. -/
def Obligations.BothChipSelectsAssertedGatesEveryTransfer : Prop :=
  ∀ (v w : Word) (s : State), v.getLsbD 0 = true → v.getLsbD 1 = true → v.getLsbD 4 = true → v.getLsbD 5 = true →
    ∃ t, exec (.wrCsctrl v) s = .next t ∧ t.ctl.cs0Level = false ∧ t.ctl.cs1Level = false ∧
      exec (.wrDr w) t = .next { t with ctl := { t.ctl with dr := w } }

/-- R134: a byte written while the gate is closed stays in `dr` and is never sent: whatever CSCTRL write follows, there is
no exchange and SR is as it was, and the next transfer sends its own byte. That the stored byte is never sent later is the
spec's own decision D19 on a point the source leaves open: log entry 14 (DESIGN CHOICE). The last clause takes a reply the
peer has lined up; the byte sent with a free reply is `TransferExchangesOneByte`. That all 32 bits are stored is the spec's
decision D4, log entry 14 too. -/
def Obligations.SelectingNeverSendsAGatedByte : Prop :=
  ∀ (v w x : Word) (s : State), transferOk s.ctl = false →
    ∃ t u, exec (.wrDr v) s = .next t ∧ exec (.wrCsctrl w) t = .next u ∧
      u.events = s.events ∧ u.calls = s.calls ∧ u.ctl.sr = s.ctl.sr ∧ u.ctl.rxData = s.ctl.rxData ∧ u.ctl.dr = v ∧
      ∀ b rest, transferOk u.ctl = true → u.peer = .reply b :: rest →
        ∃ z, exec (.wrDr x) u = .next z ∧
          z.events = s.events ++ [.xfer (x.setWidth 8) b u.ctl.cs0Level u.ctl.cs1Level]

/-! ### The transfer engine -/

/-- R142, R143: with the gate open, a DR write whose exchange returns `b` completes: the whole word is stored, the low byte
is sent, `b` is in `rx_data`, SR is R143's net effect, and the interrupt output follows; the reply `b` is what the peer has
lined up, or the free value where it has nothing lined up. Nothing else changes. That all 32 bits of the word are stored is
the spec's own decision D4: log entry 14 (DESIGN CHOICE); the form of the reply is log entry 3. SR's net effect in R143 is
the spec's own inference, and the event's form the spec's decision D14 (log entry 6). -/
def Obligations.TransferExchangesOneByte : Prop :=
  ∀ (v : Word) (b : Byte) (s : State),
    s.ctl.spe = true → s.ctl.mstr = true →
    ((s.ctl.cs0En && s.ctl.cs0Act) ^^ (s.ctl.cs1En && s.ctl.cs1Act)) = true →
    (s.peer.head? = some (.reply b) ∨
      (s.peer = [] ∧ b = Config.exchangeReply s.calls (v.setWidth 8) s.ctl.cs0Level s.ctl.cs1Level)) →
    exec (.wrDr v) s =
      .next { s with
        result := none
        peer := s.peer.tail
        calls := s.calls + 1
        events := s.events ++ [.xfer (v.setWidth 8) b s.ctl.cs0Level s.ctl.cs1Level]
        ctl := { s.ctl with
          dr := v
          rxData := b
          sr := (s.ctl.sr ||| 0x00000003 ||| (if s.ctl.sr.getLsbD 0 then 0x00000008 else 0)) &&& ~~~0x00000080
          irqLevel := s.ctl.cr2.getLsbD 7 || s.ctl.cr2.getLsbD 6
            || (s.ctl.cr2.getLsbD 5 && (s.ctl.sr.getLsbD 2 || s.ctl.sr.getLsbD 3 || s.ctl.sr.getLsbD 0)) } }

/-- R141, R142, R205: with the gate closed (not enabled, not master, or not exactly one chip-select effective), a DR write
stores the whole word and does nothing else. That all 32 bits are stored is the spec's own decision D4: log entry 14 (DESIGN
CHOICE). That nothing else happens with MSTR clear is the spec's decision D29: log entry 17 (DESIGN CHOICE, unsafe). R205 is
the spec's own inference from R142. -/
def Obligations.GatedDrWriteOnlyStores : Prop :=
  ∀ (v : Word) (s : State),
    (s.ctl.spe = false ∨ s.ctl.mstr = false ∨
      (s.ctl.cs0En && s.ctl.cs0Act) = (s.ctl.cs1En && s.ctl.cs1Act)) →
    exec (.wrDr v) s = .next { s with result := none, ctl := { s.ctl with dr := v } }

/-- R148, R210: an exchange that accesses the block is refused, and one that never returns leaves the machine stuck. R148
says that the inner access has no step, and R210 that a blocked DR write has none; that the outer DR write itself is then
refused as `reentrantAccess`, and that a hang is the fault `exchangeNeverReturns`, is log entry 4 (DEDUCED, with the spec's
own decisions D14 and D15). -/
def Obligations.MisusedExchangeHasNoStep : Prop :=
  ∀ (v : Word) (s : State), transferOk s.ctl = true →
    (∀ r, s.peer.head? = some (.reenters r) → exec (.wrDr v) s = .refused .reentrantAccess) ∧
    (s.peer.head? = some .neverReturns → exec (.wrDr v) s = .fault .exchangeNeverReturns)

/-- R140, R141, with R146(a) and R147: the exchange primitive is called by a DR write with the gate open and by nothing
else, exactly once, with the low byte of the value written; the event records the byte that is in `rx_data` afterwards and
the two levels. The block starts none by itself: a step that calls it performs such a DR write. The record of a call is the
spec's own decision D14 (log entries 3 and 6), and that nothing is exchanged in slave mode the spec's decision D29 (log
entry 17, DESIGN CHOICE, unsafe). -/
def Obligations.OnlyAnOpenDrWriteCallsTheExchange : Prop :=
  (∀ (i : Instr) (s t : State), exec i s = .next t →
    (exchanges t = exchanges s ∧ t.calls = s.calls) ∨
    ∃ v, i = .wrDr v ∧
      (s.ctl.spe && s.ctl.mstr && ((s.ctl.cs0En && s.ctl.cs0Act) ^^ (s.ctl.cs1En && s.ctl.cs1Act))) = true ∧
      t.calls = s.calls + 1 ∧
      exchanges t = exchanges s ++ [.xfer (v.setWidth 8) t.ctl.rxData s.ctl.cs0Level s.ctl.cs1Level]) ∧
  ∀ s t : State, step s = .next t → exchanges t ≠ exchanges s →
    ∃ r rest v, s.pending = r :: rest ∧ decode s.platform.regionSize r = .ok (.wrDr v)

/-- R150: a DR read completes: it returns `rx_data` zero-extended, clears exactly RXNE and OVR, and recomputes the interrupt
output, in which the terms of RXNE and OVR are now false; nothing else changes. -/
def Obligations.DrReadReturnsTheByteAndClears : Prop :=
  ∀ s : State,
    encode .rdDr = ⟨0x0000000C, 4, 0⟩ ∧
    exec .rdDr s =
      .next { s with
        result := some (s.ctl.rxData.setWidth 32)
        ctl := { s.ctl with
          sr := s.ctl.sr &&& 0xFFFFFFF6
          irqLevel := (s.ctl.cr2.getLsbD 7 && s.ctl.sr.getLsbD 1) || (s.ctl.cr2.getLsbD 5 && s.ctl.sr.getLsbD 2) } }

/-- R151: two DR reads in a row return the same value, and the second changes nothing. R151 is the spec's own inference from
R150. That the interrupt output emitted again at its level is no change is the spec's decision D17 (log entry 15, DESIGN
CHOICE). -/
def Obligations.SecondDrReadChangesNothing : Prop :=
  ∀ s : State, ∃ t, exec .rdDr s = .next t ∧ exec .rdDr t = .next t ∧
    t.ctl.sr.getLsbD 0 = false ∧ t.ctl.sr.getLsbD 3 = false

/-- R144, R207 and the source's property E5: of two transfers with no DR read between them only the newest byte survives,
OVR is set, the interrupt is asserted where ERRIE is set, and the DR read returns the second byte and clears RXNE and OVR.
R207 is the spec's own inference from R144. -/
def Obligations.OverrunKeepsOnlyTheNewestByte : Prop :=
  ∀ (v w : Word) (b c : Byte) (rest : List PeerAct) (s : State),
    transferOk s.ctl = true → s.peer = .reply b :: .reply c :: rest →
    ∃ t u z, exec (.wrDr v) s = .next t ∧ t.ctl.sr.getLsbD 0 = true ∧ t.ctl.rxData = b ∧
      exec (.wrDr w) t = .next u ∧ u.ctl.sr.getLsbD 3 = true ∧ u.ctl.rxData = c ∧
      (s.ctl.cr2.getLsbD 5 = true → u.ctl.irqLevel = true) ∧
      exec .rdDr u = .next z ∧ z.result = some (c.setWidth 32) ∧
      z.ctl.sr.getLsbD 0 = false ∧ z.ctl.sr.getLsbD 3 = false

/-- R206, R80 (`xfer`): the DR read right after a transfer returns that transfer's reply, with no wait between. R206 is the
spec's own inference, the pseudo-operation its notation (D3, log entry 26), and the form of a free reply is log entry 3
(DESIGN CHOICE). -/
def Obligations.ReadAfterTransferReturnsTheReply : Prop :=
  ∀ (v : Word) (s : State), transferOk s.ctl = true → PeerReady s →
    expandPseudo (.xfer v) = [.wrDr v, .rdDr] ∧
    ∃ b t u, peerAct s (v.setWidth 8) = .reply b ∧ exec (.wrDr v) s = .next t ∧ exec .rdDr t = .next u ∧
      u.result = some (b.setWidth 32) ∧ u.ctl.sr.getLsbD 0 = false ∧ u.ctl.sr.getLsbD 3 = false

/-- R149: the state machine of the source in values of SR, at every observable point: a transfer leads from Idle to HasData
and from HasData to HasData with OVR, a gated write leaves SR, and a DR read and reset lead to Idle. Busy never holds at an
observable point: TXE is 1 and BSY is 0. That SR holds one of three values is R36, the spec's own inference, with UDR 0 by
the spec's decision D25 (log entry 12, DESIGN CHOICE, unsafe). That the gated write stores all 32 bits of `dr` is the spec's
decision D4 (log entry 14, DESIGN CHOICE; no claim may read `dr[31:8]`), and that it does nothing else with MSTR clear the
spec's decision D29 (log entry 17, DESIGN CHOICE, unsafe). That a run starts after reset is the spec's decision D13 (log
entry 13). -/
def Obligations.TransferStateMachine : Prop :=
  State.reset.ctl.sr = 0x00000002 ∧
  ∀ (v : Word) (s : State), s.ctl.Inv →
    s.ctl.sr.getLsbD 1 = true ∧ s.ctl.sr.getLsbD 7 = false ∧
    (transferOk s.ctl = true → PeerReady s →
      ∃ t, exec (.wrDr v) s = .next t ∧
        t.ctl.sr = (if s.ctl.sr = 0x00000002 then 0x00000003 else 0x0000000B)) ∧
    (transferOk s.ctl = false → ∃ t, exec (.wrDr v) s = .next t ∧ t.ctl.sr = s.ctl.sr ∧ t.ctl.dr = v) ∧
    (∃ t, exec .rdDr s = .next t ∧ t.ctl.sr = 0x00000002) ∧
    ∃ t, exec .reset s = .next t ∧ t.ctl.sr = 0x00000002

/-! ### Reset -/

/-- R200, R41, R202: RESET completes from every state with the same record, field by field, and touches nothing outside the
block; the machine's initial state is that record. That `dr` and `rxData` are 0 is the spec's own decision D18: log entry 9
(DESIGN CHOICE); that nothing outside the block is touched is log entry 24 (DEDUCED). That the machine starts in that record
is the spec's decision D13: log entry 13 (DESIGN CHOICE); that reset stands between two operations is the spec's decision
D26: log entry 21. -/
def Obligations.ResetEstablishesTheResetValues : Prop :=
  (encode .reset).key = 0x80000000 ∧
  (∀ s : State,
    exec .reset s =
      .next { s with
        result := none
        ctl :=
          { cr1 := 0x00000000, cr2 := 0x00000000, sr := 0x00000002, dr := 0x00000000, rxData := 0x00
            csctrl := 0x00000000, spe := false, mstr := false, cs0En := false, cs0Act := false
            cs1En := false, cs1Act := false, cs0Level := true, cs1Level := true, irqLevel := false } }) ∧
  ∀ s t : State, exec .reset s = .next t → t.ctl = State.reset.ctl

/-- R201, R202: the raw construction state has both chip-selects asserted, which its own record contradicts (R33), and RESET
leads from it to the initial state of a run. That construction leaves the output levels false is a choice of reading: R201
"read literally". The source does not say what they are before the first reset (C7, N11, and I13 leaves a claim about that
window unsaid), and the spec's own decision D13 starts every run after reset: log entry 13 (DESIGN CHOICE, unsafe for a
claim about that window, as the first three clauses are). The reset values of `dr` and `rxData` are D18, log entry 9. -/
def Obligations.ConstructionStateNeedsTheReset : Prop :=
  Controller.constructed.cs0Level = false ∧ Controller.constructed.cs1Level = false ∧
  ¬ Controller.constructed.Consistent ∧
  exec .reset { State.reset with ctl := Controller.constructed } = .next State.reset

/-! ### The interrupt logic and the flags -/

/-- R173: where the outputs follow their definition (R34), the interrupt output is asserted if and only if one of the three
terms holds. No other bit and no other register enters it: two such controllers that agree on the seven bits agree on the
output. -/
def Obligations.InterruptIsTheOrOfThreeTerms : Prop :=
  (∀ c : Controller, c.Consistent →
    (c.irqLevel = true ↔
      (c.cr2.getLsbD 7 = true ∧ c.sr.getLsbD 1 = true) ∨ (c.cr2.getLsbD 6 = true ∧ c.sr.getLsbD 0 = true) ∨
        (c.cr2.getLsbD 5 = true ∧ (c.sr.getLsbD 2 = true ∨ c.sr.getLsbD 3 = true)))) ∧
  ∀ c d : Controller, c.Consistent → d.Consistent → (∀ k ∈ [5, 6, 7], c.cr2.getLsbD k = d.cr2.getLsbD k) →
    (∀ k ∈ [0, 1, 2, 3], c.sr.getLsbD k = d.sr.getLsbD k) → c.irqLevel = d.irqLevel

/-- R208: at every observable point with TXEIE set the line is asserted, and every operation but a CR2 write and reset
leaves it asserted. R208 is the spec's own inference from R36 and R173. R36 is an inference itself, and that a read of SR
leaves the line is the spec's decision D5 (log entry 11, DESIGN CHOICE, unsafe). -/
def Obligations.TxeieHoldsTheInterruptLine : Prop :=
  ∀ s : State, s.ctl.Inv → s.ctl.cr2.getLsbD 7 = true →
    s.ctl.irqLevel = true ∧
    ∀ (i : Instr) (t : State), (∀ v, i ≠ .wrCr2 v) → i ≠ .reset → exec i s = .next t → t.ctl.irqLevel = true

/-- R178: how software deasserts the line, at every observable point: with TXEIE clear a DR read does; with TXEIE clear and
no RXNE term an SR write with bit 3 set does; a CR2 write with the three enables clear does; reset does. R178 and R36 are
the spec's own inferences; that UDR holds no line asserted is the spec's decision D25 (log entry 12, DESIGN CHOICE, unsafe). -/
def Obligations.SoftwareDeassertsTheInterrupt : Prop :=
  ∀ s : State, s.ctl.Inv →
    (s.ctl.cr2.getLsbD 7 = false → ∃ t, exec .rdDr s = .next t ∧ t.ctl.irqLevel = false) ∧
    (∀ v, s.ctl.cr2.getLsbD 7 = false → (s.ctl.cr2.getLsbD 6 = false ∨ s.ctl.sr.getLsbD 0 = false) →
      v.getLsbD 3 = true → ∃ t, exec (.wrSr v) s = .next t ∧ t.ctl.irqLevel = false) ∧
    (∀ v, v.getLsbD 7 = false → v.getLsbD 6 = false → v.getLsbD 5 = false →
      ∃ t, exec (.wrCr2 v) s = .next t ∧ t.ctl.irqLevel = false ∧ t.ctl.sr = s.ctl.sr) ∧
    ∃ t, exec .reset s = .next t ∧ t.ctl.irqLevel = false

/-- R25, R35: every bit of SR is set only by a transfer (RXNE, TXE, and OVR if RXNE was set) or by reset (TXE), and cleared
only by a DR read (RXNE, OVR), by an SR write with that bit set (UDR, OVR), by a transfer (BSY) or by reset. So nothing sets
UDR or a reserved bit. That nothing sets UDR is the spec's own decision D25: log entry 12. That RXNE rises by a DR write
only, there being no receive path in slave mode, is the spec's decision D29: log entry 17. That a read of SR clears no bit
is the spec's decision D5: log entry 11. All three are DESIGN CHOICE and unsafe for such a claim. R35 is the spec's own
inference from R25. -/
def Obligations.SrBitsMoveOnlyAsTheTableSays : Prop :=
  ∀ (i : Instr) (s t : State) (k : Nat), exec i s = .next t →
    (s.ctl.sr.getLsbD k = false → t.ctl.sr.getLsbD k = true →
      (∃ v, i = .wrDr v ∧ transferOk s.ctl = true ∧ (k = 0 ∨ k = 1 ∨ (k = 3 ∧ s.ctl.sr.getLsbD 0 = true))) ∨
        (i = .reset ∧ k = 1)) ∧
    (s.ctl.sr.getLsbD k = true → t.ctl.sr.getLsbD k = false →
      (i = .rdDr ∧ (k = 0 ∨ k = 3)) ∨ (∃ v, i = .wrSr v ∧ (k = 2 ∨ k = 3) ∧ v.getLsbD k = true) ∨
        (∃ v, i = .wrDr v ∧ transferOk s.ctl = true ∧ k = 7) ∨ (i = .reset ∧ k ≠ 1))

/-! ### The whole machine -/

/-- R31, R33, R34, R36, R109, R110, R146, headline: a step from a state that meets the invariant leads to one that meets it:
the derived booleans and the three outputs equal their definitions, SR holds one of its three values, every exchange was
made with exactly one chip-select asserted, and every diagnostic names an aligned offset of the region that is no
register's. R31, R33, R34 and R36 are the spec's own inferences. R36 keeps UDR at 0 by the spec's own decision D25: log
entry 12; that a read of SR keeps SR is the spec's decision D5: log entry 11; that SR does not change by a reception in
slave mode is the spec's decision D29: log entry 17. All three are DESIGN CHOICE and unsafe for such a claim. That the
booleans and outputs are stored is log entry 10, that every SR write recomputes is D6 (log entry 16), and the record of
events is D14 (log entry 6). -/
def Obligations.StepKeepsTheInvariant : Prop :=
  ∀ s t : State, s.Inv → step s = .next t → t.Inv

/-- R202, R41: the initial state of a run meets the invariant. The record of a run is empty there (the model's choice, log 3
and log 6). That a run starts after reset is the spec's own decision D13: log entry 13 (DESIGN CHOICE). -/
def Obligations.InitialStateMeetsTheInvariant : Prop := State.reset.Inv

/-- R171, R179: no operation is fatal: while the peer keeps its contract, every operation completes from every state. That
nothing traps is the spec's own decision D21 (log entry 23); an invalid offset that no request decodes to is log entry 25
(DESIGN CHOICE), and a free reply always returns by log entry 4. -/
def Obligations.EveryOperationCompletes : Prop :=
  ∀ (i : Instr) (s : State), PeerReady s → ∃ t, exec i s = .next t

/-- R171, R172, R148, R210: a step stops only on a request that the interface refuses, or on a DR write with the gate open
whose peer breaks its contract. That a refused request ends the run is log entry 19 (DEDUCED, with the spec's own decisions
D7, D8 and D27); the two stops of a DR write are log entry 4 (DEDUCED, with D14 and D15). -/
def Obligations.StepStopsOnlyOutsideTheContract : Prop :=
  ∀ s : State,
    (∀ why, step s = .fault why →
      ∃ r rest v, s.pending = r :: rest ∧ decode s.platform.regionSize r = .ok (.wrDr v) ∧
        transferOk s.ctl = true ∧ s.peer.head? = some .neverReturns) ∧
    (∀ why, step s = .refused why →
      ∃ r rest, s.pending = r :: rest ∧
        ((∃ e, why = .notAdmitted e ∧ decode s.platform.regionSize r = .error e) ∨
          (∃ v q, why = .reentrantAccess ∧ decode s.platform.regionSize r = .ok (.wrDr v) ∧
            transferOk s.ctl = true ∧ s.peer.head? = some (.reenters q))))

/-- R39(a), R26: the stored word of DR is invisible: two states that differ in `dr` only take every operation to states that
differ in `dr` at most, so that nothing observed depends on it. This compares two runs: with nothing lined up both get the
same reply by the model's choice, the free reply being one function of the call's number, the byte and the levels (log entry
3, DESIGN CHOICE, unsafe for such a claim). That `dr` holds all 32 bits is log entry 14 (DESIGN CHOICE). That a read of SR
has no effect is log entry 11 (D5, DESIGN CHOICE). -/
def Obligations.StoredDrIsInvisible : Prop :=
  ∀ (i : Instr) (s t : State) (d : Word), exec i s = .next t →
    ∃ e, exec i { s with ctl := { s.ctl with dr := d } } = .next { t with ctl := { t.ctl with dr := e } } ∧
      observe { t with ctl := { t.ctl with dr := e } } = observe t

/-- R29, R78: the reserved bits of CR1, CR2 and CSCTRL are stored and have no function. Writes of two values that agree on
the bits with a function differ in the register written at most, and raise no diagnostic. The last clause says more than the
rules: two states that differ in the stored words of CR1 and CSCTRL, bits with a function among them, and in the reserved
bits of CR2 only, are taken by every operation but the three raw reads to states that differ in those registers at most. For
CR1 and CSCTRL that rests on the model's choice to store the derived booleans (log entry 10, DESIGN CHOICE): the operations
read the booleans, which here stay equal. That clause compares two runs: with nothing lined up both get the same free reply
by the model's choice (log entry 3, DESIGN CHOICE, unsafe for such a claim). R29 is the spec's own inference, and that a
read of SR has no effect is log entry 11 (D5, DESIGN CHOICE). -/
def Obligations.ReservedBitsHaveNoFunction : Prop :=
  (∀ (v w : Word) (s t : State), (∀ k ∈ [2, 6], v.getLsbD k = w.getLsbD k) → exec (.wrCr1 v) s = .next t →
    exec (.wrCr1 w) s = .next { t with ctl := { t.ctl with cr1 := w } } ∧ t.events = s.events) ∧
  (∀ (v w : Word) (s t : State), (∀ k ∈ [5, 6, 7], v.getLsbD k = w.getLsbD k) → exec (.wrCr2 v) s = .next t →
    exec (.wrCr2 w) s = .next { t with ctl := { t.ctl with cr2 := w } } ∧ t.events = s.events) ∧
  (∀ (v w : Word) (s t : State), (∀ k ∈ [0, 1, 4, 5], v.getLsbD k = w.getLsbD k) → exec (.wrCsctrl v) s = .next t →
    exec (.wrCsctrl w) s = .next { t with ctl := { t.ctl with csctrl := w } } ∧ t.events = s.events) ∧
  ∀ (i : Instr) (s t : State) (a b c : Word), (∀ k ∈ [5, 6, 7], b.getLsbD k = s.ctl.cr2.getLsbD k) →
    i ≠ .rdCr1 → i ≠ .rdCr2 → i ≠ .rdCsctrl → exec i s = .next t →
    ∃ x y z, exec i { s with ctl := { s.ctl with cr1 := a, cr2 := b, csctrl := c } } =
      .next { t with ctl := { t.ctl with cr1 := x, cr2 := y, csctrl := z } }

/-! ### The host interface -/

/-- R52, R53: a host address reaches the block at an offset exactly when it lies in the region, at its distance from
`BASE_ADDR`; `REGION_SIZE` is at least 0x14, a multiple of 4 and at most 2^30, and every such size is a platform's. The
address and the size are OPEN parameters by the spec's own decisions D10 and D9; their form is log entry 7 (DESIGN CHOICE,
the type of an address PRESUMED). -/
def Obligations.HostAddressReachesItsOffset : Prop :=
  (∀ (p : Platform) (a : Nat) (off : Offset), route p a = some off ↔
    p.baseAddr ≤ a ∧ a < p.baseAddr + p.regionSize ∧ off.toNat = a - p.baseAddr) ∧
  ∀ n : Nat, (∃ p : Platform, p.regionSize = n) ↔ 0x14 ≤ n ∧ n % 4 = 0 ∧ n ≤ 2 ^ 30

/-- R54, R55: a host access of a width other than 4, and an access at a misaligned offset, is refused, for reads and for
writes: it has no step. That such an access is refused is the spec's own decision D7 and D8 (log entry 19); the lanes of the
host's bytes are log entry 22, and that the run ends in a named refusal is log entry 19 (DEDUCED). -/
def Obligations.NarrowAndMisalignedAccessesHaveNoStep : Prop :=
  ∀ (s : State) (rest : List Request) (r : Request) (a : Nat), s.pending = r :: rest →
    (∀ size, hostRead s.platform a size = some r → size ≠ 4 → step s = .refused (.notAdmitted .width)) ∧
    (∀ bytes, hostWrite s.platform a bytes = some r → bytes.length ≠ 4 → step s = .refused (.notAdmitted .width)) ∧
    (hostRead s.platform a 4 = some r → (a - s.platform.baseAddr) % 4 ≠ 0 →
      step s = .refused (.notAdmitted .misaligned)) ∧
    (∀ bytes, hostWrite s.platform a bytes = some r → bytes.length = 4 → (a - s.platform.baseAddr) % 4 ≠ 0 →
      step s = .refused (.notAdmitted .misaligned))

/-- R40, D24 (the spec's own choice, log 20): restoring the snapshot of a controller whose booleans and outputs follow their
definitions gives that controller back, whatever it is restored into, and every restored controller follows them. -/
def Obligations.RestoreGivesBackTheController : Prop :=
  (∀ c d : Controller, c.Consistent → restoreSnapshot (takeSnapshot c) d = c) ∧
  ∀ (x : Snapshot) (d : Controller), (restoreSnapshot x d).Consistent

/-- R80: the pseudo-operations of one operation have the effect the table gives them. They are the spec's own notation (D3,
log entry 26). -/
def Obligations.PseudoOperationsHaveTheirEffect : Prop :=
  ∀ s : State,
    (∃ i t, expandPseudo .enableMaster = [i] ∧ exec i s = .next t ∧ t.ctl.spe = true ∧ t.ctl.mstr = true) ∧
    (∃ i t, expandPseudo .disable = [i] ∧ exec i s = .next t ∧ t.ctl.spe = false ∧ t.ctl.mstr = false) ∧
    (∃ i t, expandPseudo .select0 = [i] ∧ exec i s = .next t ∧ effCs0 t.ctl = true ∧ effCs1 t.ctl = false) ∧
    (∃ i t, expandPseudo .select1 = [i] ∧ exec i s = .next t ∧ effCs1 t.ctl = true ∧ effCs0 t.ctl = false) ∧
    (∃ i t, expandPseudo .deselect = [i] ∧ exec i s = .next t ∧ effCs0 t.ctl = false ∧ effCs1 t.ctl = false) ∧
    (∃ i t, expandPseudo .clrErr = [i] ∧ exec i s = .next t ∧
      t.ctl.sr.getLsbD 3 = false ∧ t.ctl.sr.getLsbD 2 = false)
end

