-- ==== Sys2Proof/Laws/Decode.lean ====
section
/-! SUPPORT. The fields of a key as numbers, the keys that are made, and the lanes of the host bus. -/

namespace Sys2Proof

/-- `K[29:0]` as a number (spec R70). -/
@[simp] theorem toNat_keyOffset (k : Word) : (keyOffset k).toNat = k.toNat % 2 ^ 30 := by
  simp [keyOffset]

/-- `K[31:30]` as a number (spec R70). -/
theorem keyKind_eq (k : Word) :
    keyKind k = if k.toNat < 2 ^ 30 then .read else if k.toNat < 2 ^ 31 then .write
      else if k.toNat < 3 * 2 ^ 30 then .reset else .reserved := by
  have hk := k.isLt
  have e (n : Nat) (hn : n < 4) : k.extractLsb' 30 2 = BitVec.ofNat 2 n ↔ k.toNat / 2 ^ 30 = n := by
    rw [← BitVec.toNat_inj]
    simp only [BitVec.extractLsb'_toNat, BitVec.toNat_ofNat, Nat.shiftRight_eq_div_pow]
    omega
  have e0 := e 0 (by omega)
  have e1 := e 1 (by omega)
  have e2 := e 2 (by omega)
  unfold keyKind
  simp only [e0, e1, e2]
  split_ifs <;> first | rfl | omega

/-- The key of a kind and an offset as a number (spec R70). -/
theorem toNat_makeKey_read (off : Offset) : (makeKey .read off).toNat = off.toNat := by
  simp only [makeKey, BitVec.toNat_append]
  simp

theorem toNat_makeKey_write (off : Offset) : (makeKey .write off).toNat = 2 ^ 30 + off.toNat := by
  have h := off.isLt
  simp only [makeKey, BitVec.toNat_append]
  rw [Nat.shiftLeft_eq, show BitVec.toNat 0b01#2 * 2 ^ 30 = 2 ^ 30 * 1 from rfl, ← Nat.two_pow_add_eq_or_of_lt h]
  omega

/-- Alignment of an offset as a number (spec R55). -/
theorem alignedOffset_iff (off : Offset) : alignedOffset off = true ↔ off.toNat % 4 = 0 := by
  unfold alignedOffset
  rw [beq_iff_eq, ← BitVec.toNat_inj]
  simp

/-- The offset a key holds, as a number (spec R70). -/
theorem keyOffset_eq_iff (k : Word) (n : Nat) (hn : n < 2 ^ 30) :
    keyOffset k = BitVec.ofNat 30 n ↔ k.toNat % 2 ^ 30 = n := by
  rw [← BitVec.toNat_inj, toNat_keyOffset, BitVec.toNat_ofNat]
  omega

@[simp] theorem keyKind_makeKey_read (off : Offset) : keyKind (makeKey .read off) = .read := by
  have h := off.isLt
  rw [keyKind_eq, toNat_makeKey_read, if_pos h]

@[simp] theorem keyKind_makeKey_write (off : Offset) : keyKind (makeKey .write off) = .write := by
  have h := off.isLt
  rw [keyKind_eq, toNat_makeKey_write, if_neg (by omega), if_pos (by omega)]

@[simp] theorem keyOffset_makeKey_read (off : Offset) : keyOffset (makeKey .read off) = off := by
  have h := off.isLt
  rw [← BitVec.toNat_inj, toNat_keyOffset, toNat_makeKey_read]
  omega

@[simp] theorem keyOffset_makeKey_write (off : Offset) : keyOffset (makeKey .write off) = off := by
  have h := off.isLt
  rw [← BitVec.toNat_inj, toNat_keyOffset, toNat_makeKey_write]
  omega

/-- The checks of an access as numbers (spec R75). -/
theorem admission_eq (region size : Nat) (off : Offset) :
    admission region size off =
      if size ≠ 4 then some .width
      else if off.toNat % 4 ≠ 0 then some .misaligned
      else if region ≤ off.toNat then some .notRouted
      else none := by
  unfold admission
  have ha := alignedOffset_iff off
  by_cases h : off.toNat % 4 = 0
  · simp [ha.2 h, h]
  · have : alignedOffset off = false := by
      by_contra hc
      exact h (ha.1 (by simpa using hc))
    simp [this, h]

/-- An access the block admits (spec R54, R55, R53). -/
theorem admission_eq_none {region size : Nat} {off : Offset} (h : admission region size off = none) :
    size = 4 ∧ alignedOffset off = true ∧ off.toNat < region := by
  unfold admission at h
  split_ifs at h with hs ha hr
  exact ⟨not_not.mp hs, by simpa using ha, Nat.lt_of_not_le hr⟩

/-- The offsets of RD_INV and WR_INV (spec R109, R110). -/
theorem invalidOffset_iff (off : Offset) :
    invalidOffset off = true ↔
      alignedOffset off = true ∧ off ≠ 0x00 ∧ off ≠ 0x04 ∧ off ≠ 0x08 ∧ off ≠ 0x0C ∧ off ≠ 0x10 := by
  simp [invalidOffset, registerOffsets]

/-- A region's size is admissible whatever the platform is (spec R53, D9). -/
theorem Platform.regionSize_bounds (p : Platform) :
    0x14 ≤ p.regionSize ∧ p.regionSize % 4 = 0 ∧ p.regionSize ≤ 2 ^ 30 := by
  have h := p.spareWords.isLt
  unfold Platform.regionSize
  omega

/-- The lanes of a value carry it, in either order (spec R59). -/
theorem Machine.wordOfLanes_lanesOfWord (order : ByteOrder) (v : Word) (b0 b1 b2 b3 : Byte)
    (h : lanesOfWord order v = [b0, b1, b2, b3]) : wordOfLanes order b0 b1 b2 b3 = v := by
  apply BitVec.eq_of_getLsbD_eq
  intro i hi
  cases order <;>
    (simp only [lanesOfWord, List.cons.injEq, and_true] at h
     obtain ⟨rfl, rfl, rfl, rfl⟩ := h
     simp only [wordOfLanes, BitVec.getLsbD_append, BitVec.getLsbD_extractLsb']
     split_ifs <;> (rw [decide_eq_true (by omega), Bool.true_and]; congr 1; omega))

end Sys2Proof
end

