-- ==== Sys2Proof/Laws/State.lean ====
section
/-! SUPPORT. One lemma per field for every shared update of the controller and of the state, so that no later proof unfolds a
record update. -/

namespace Sys2Proof.Machine

section ChipSelectLogic
variable (c : Controller)
@[simp] theorem chipSelectLogic_cr1 : (chipSelectLogic c).cr1 = c.cr1 := rfl
@[simp] theorem chipSelectLogic_cr2 : (chipSelectLogic c).cr2 = c.cr2 := rfl
@[simp] theorem chipSelectLogic_sr : (chipSelectLogic c).sr = c.sr := rfl
@[simp] theorem chipSelectLogic_dr : (chipSelectLogic c).dr = c.dr := rfl
@[simp] theorem chipSelectLogic_rxData : (chipSelectLogic c).rxData = c.rxData := rfl
@[simp] theorem chipSelectLogic_csctrl : (chipSelectLogic c).csctrl = c.csctrl := rfl
@[simp] theorem chipSelectLogic_spe : (chipSelectLogic c).spe = c.spe := rfl
@[simp] theorem chipSelectLogic_mstr : (chipSelectLogic c).mstr = c.mstr := rfl
@[simp] theorem chipSelectLogic_cs0En : (chipSelectLogic c).cs0En = c.cs0En := rfl
@[simp] theorem chipSelectLogic_cs0Act : (chipSelectLogic c).cs0Act = c.cs0Act := rfl
@[simp] theorem chipSelectLogic_cs1En : (chipSelectLogic c).cs1En = c.cs1En := rfl
@[simp] theorem chipSelectLogic_cs1Act : (chipSelectLogic c).cs1Act = c.cs1Act := rfl
@[simp] theorem chipSelectLogic_cs0Level : (chipSelectLogic c).cs0Level = !effCs0 c := rfl
@[simp] theorem chipSelectLogic_cs1Level : (chipSelectLogic c).cs1Level = !effCs1 c := rfl
@[simp] theorem chipSelectLogic_irqLevel : (chipSelectLogic c).irqLevel = c.irqLevel := rfl
@[simp] theorem chipSelectLogic_effCs0 : effCs0 (chipSelectLogic c) = effCs0 c := rfl
@[simp] theorem chipSelectLogic_effCs1 : effCs1 (chipSelectLogic c) = effCs1 c := rfl
end ChipSelectLogic

section InterruptLogic
variable (c : Controller)
@[simp] theorem interruptLogic_cr1 : (interruptLogic c).cr1 = c.cr1 := rfl
@[simp] theorem interruptLogic_cr2 : (interruptLogic c).cr2 = c.cr2 := rfl
@[simp] theorem interruptLogic_sr : (interruptLogic c).sr = c.sr := rfl
@[simp] theorem interruptLogic_dr : (interruptLogic c).dr = c.dr := rfl
@[simp] theorem interruptLogic_rxData : (interruptLogic c).rxData = c.rxData := rfl
@[simp] theorem interruptLogic_csctrl : (interruptLogic c).csctrl = c.csctrl := rfl
@[simp] theorem interruptLogic_spe : (interruptLogic c).spe = c.spe := rfl
@[simp] theorem interruptLogic_mstr : (interruptLogic c).mstr = c.mstr := rfl
@[simp] theorem interruptLogic_cs0En : (interruptLogic c).cs0En = c.cs0En := rfl
@[simp] theorem interruptLogic_cs0Act : (interruptLogic c).cs0Act = c.cs0Act := rfl
@[simp] theorem interruptLogic_cs1En : (interruptLogic c).cs1En = c.cs1En := rfl
@[simp] theorem interruptLogic_cs1Act : (interruptLogic c).cs1Act = c.cs1Act := rfl
@[simp] theorem interruptLogic_cs0Level : (interruptLogic c).cs0Level = c.cs0Level := rfl
@[simp] theorem interruptLogic_cs1Level : (interruptLogic c).cs1Level = c.cs1Level := rfl
@[simp] theorem interruptLogic_irqLevel : (interruptLogic c).irqLevel = irqFn c.cr2 c.sr := rfl
@[simp] theorem interruptLogic_effCs0 : effCs0 (interruptLogic c) = effCs0 c := rfl
@[simp] theorem interruptLogic_effCs1 : effCs1 (interruptLogic c) = effCs1 c := rfl
end InterruptLogic

section RaiseDiag
variable (dir : Dir) (off : Offset) (s : State)
@[simp] theorem raiseDiag_ctl : (raiseDiag dir off s).ctl = s.ctl := rfl
@[simp] theorem raiseDiag_result : (raiseDiag dir off s).result = s.result := rfl
@[simp] theorem raiseDiag_events : (raiseDiag dir off s).events = s.events ++ [.diag dir off] := rfl
@[simp] theorem raiseDiag_pending : (raiseDiag dir off s).pending = s.pending := rfl
@[simp] theorem raiseDiag_peer : (raiseDiag dir off s).peer = s.peer := rfl
@[simp] theorem raiseDiag_calls : (raiseDiag dir off s).calls = s.calls := rfl
@[simp] theorem raiseDiag_platform : (raiseDiag dir off s).platform = s.platform := rfl
end RaiseDiag

section RecordExchange
variable (s : State) (out inn : Byte)
@[simp] theorem recordExchange_ctl : (recordExchange s out inn).ctl = s.ctl := rfl
@[simp] theorem recordExchange_result : (recordExchange s out inn).result = s.result := rfl
@[simp] theorem recordExchange_events :
    (recordExchange s out inn).events = s.events ++ [.xfer out inn s.ctl.cs0Level s.ctl.cs1Level] := rfl
@[simp] theorem recordExchange_pending : (recordExchange s out inn).pending = s.pending := rfl
@[simp] theorem recordExchange_peer : (recordExchange s out inn).peer = s.peer.tail := rfl
@[simp] theorem recordExchange_calls : (recordExchange s out inn).calls = s.calls + 1 := rfl
@[simp] theorem recordExchange_platform : (recordExchange s out inn).platform = s.platform := rfl
end RecordExchange

end Sys2Proof.Machine
end

