-- ==== Sys2Proof/Laws/Flags.lean ====
section
/-! SUPPORT. Every bit of every SR update, the net effect of a transfer on SR, and the output functions read bit by bit: the
lemmas that push the flag computations down to booleans. -/

namespace Sys2Proof.Machine

theorem getLsbD_setBit (v : Word) (i k : Nat) (b : Bool) (hi : i < 32) :
    (setBit v i b).getLsbD k = if k = i then b else v.getLsbD k := by
  have hone : (1#32 <<< i).getLsbD k = decide (k = i) := by
    simp only [BitVec.getLsbD_shiftLeft, BitVec.getLsbD_one]
    by_cases h : k = i
    · subst h; simp [hi]
    · by_cases h' : k < i
      · simp [h, h']
      · simp [h, h']; omega
  unfold setBit
  cases b
  · rw [if_neg Bool.false_ne_true, BitVec.getLsbD_and, BitVec.getLsbD_not, hone]
    by_cases hk : k < 32
    · by_cases h : k = i <;> simp [hk, h]
    · have : ¬ k = i := by omega
      simp [this, BitVec.getLsbD_of_ge v k (Nat.le_of_not_lt hk)]
  · rw [if_pos rfl, BitVec.getLsbD_or, hone]
    by_cases h : k = i <;> simp [h]

/-- The SR update of an SR write, bit by bit (spec R107). -/
theorem getLsbD_srAfterWrite (sr v : Word) (k : Nat) :
    (srAfterWrite sr v).getLsbD k = (sr.getLsbD k && !((k == 2 || k == 3) && v.getLsbD k)) := by
  have hmask : w1cMask.getLsbD k = (k == 2 || k == 3) := by
    by_cases hk : k < 32
    · have : ∀ j : Fin 32, w1cMask.getLsbD j = (j.val == 2 || j.val == 3) := by decide
      exact this ⟨k, hk⟩
    · rw [BitVec.getLsbD_of_ge _ _ (Nat.le_of_not_lt hk)]
      simp; omega
  unfold srAfterWrite
  rw [BitVec.getLsbD_and, BitVec.getLsbD_not, BitVec.getLsbD_and, hmask]
  by_cases hk : k < 32
  · simp [hk, Bool.and_comm]
  · simp [BitVec.getLsbD_of_ge sr k (Nat.le_of_not_lt hk)]

/-- The SR update of a DR read, bit by bit (spec R150). -/
theorem getLsbD_srAfterDrRead (sr : Word) (k : Nat) :
    (srAfterDrRead sr).getLsbD k = (sr.getLsbD k && !(k == 0 || k == 3)) := by
  simp only [srAfterDrRead, getLsbD_setBit _ _ _ _ (show srOvr < 32 by decide),
    getLsbD_setBit _ _ _ _ (show srRxne < 32 by decide)]
  by_cases h3 : k = 3
  · simp [h3]
  · by_cases h0 : k = 0 <;> simp [h3, h0]

/-- SR after the steps 1, 3 and 5 of a transfer (spec R143). -/
def srAfterTransfer (sr : Word) : Word := srTransferEnds (srOverrun (srTransferBegins sr))

/-- Every bit of SR after a transfer (spec R143): RXNE and TXE set, BSY cleared, OVR set if RXNE was, the rest unchanged. -/
theorem getLsbD_srAfterTransfer (sr : Word) (k : Nat) :
    (srAfterTransfer sr).getLsbD k =
      if k = 0 ∨ k = 1 then true else if k = 7 then false
      else if k = 3 then sr.getLsbD 3 || sr.getLsbD 0 else sr.getLsbD k := by
  have hr : bit (srTransferBegins sr) srRxne = sr.getLsbD 0 := by
    unfold bit srTransferBegins
    rw [getLsbD_setBit _ _ _ _ (by decide), getLsbD_setBit _ _ _ _ (by decide)]
    rfl
  simp only [srAfterTransfer, srTransferEnds, srOverrun, hr, getLsbD_setBit _ srBsy _ _ (by decide),
    getLsbD_setBit _ srTxe _ _ (by decide), getLsbD_setBit _ srRxne _ _ (by decide)]
  have ho : (if sr.getLsbD 0 = true then setBit (srTransferBegins sr) srOvr true else srTransferBegins sr).getLsbD k =
      if k = 3 then (srTransferBegins sr).getLsbD 3 || sr.getLsbD 0 else (srTransferBegins sr).getLsbD k := by
    cases sr.getLsbD 0
    · by_cases h : k = 3
      · subst h; simp only [Bool.false_eq_true, if_false, if_true, Bool.or_false]
      · simp only [Bool.false_eq_true, if_false, if_neg h]
    · simp only [if_true, getLsbD_setBit _ srOvr _ _ (show srOvr < 32 by decide), Bool.or_true]
  have hb (j : Nat) (h1 : j ≠ 1) (h7 : j ≠ 7) : (srTransferBegins sr).getLsbD j = sr.getLsbD j := by
    unfold srTransferBegins
    rw [getLsbD_setBit _ _ _ _ (by decide), getLsbD_setBit _ _ _ _ (by decide), if_neg h7, if_neg h1]
  rw [ho, hb 3 (by decide) (by decide)]
  by_cases h0 : k = 0
  · simp [h0]
  by_cases h1 : k = 1
  · simp [h1]
  by_cases h7 : k = 7
  · simp [h7]
  · simp only [h0, h1, h7, if_false, or_self, hb k h1 h7]

/-- The interrupt function, bit by bit (spec R10). -/
theorem irqFn_eq (cr2 sr : Word) :
    irqFn cr2 sr = ((cr2.getLsbD 7 && sr.getLsbD 1) || (cr2.getLsbD 6 && sr.getLsbD 0)
      || (cr2.getLsbD 5 && (sr.getLsbD 2 || sr.getLsbD 3))) := rfl

/-- The gate opened means exactly one chip-select effective, and the block enabled as a master (spec R141). -/
theorem transferOk_eq_true (c : Controller) :
    transferOk c = true ↔ c.spe = true ∧ c.mstr = true ∧ effCs0 c ≠ effCs1 c := by
  cases h0 : effCs0 c <;> cases h1 : effCs1 c <;> simp [transferOk, h0, h1]

@[simp] theorem lowByte_eq (v : Word) : lowByte v = v.setWidth 8 := by
  apply BitVec.eq_of_getLsbD_eq
  intro i hi
  simp [lowByte, hi]

end Sys2Proof.Machine
end

