-- ==== Sys2Proof/Laws/Ops.lean ====
section
/-! SUPPORT. What each shared operation can do, once: its outcomes and the state it leaves. -/

namespace Sys2Proof.Machine

@[simp] theorem answer_eq_next {v : Word} {s t : State} :
    answer v s = .next t ↔ { s with result := some v } = t := by simp [answer]

@[simp] theorem done_eq_next {s t : State} : done s = .next t ↔ { s with result := none } = t := by simp [done]

@[simp] theorem idle_eq (s : State) : idle s = .next s := rfl

/-- What the next exchange meets: the peer's next act, or the free value where nothing is lined up (spec R146). -/
theorem peerAct_cases (s : State) (out : Byte) :
    (s.peer.head? = some (peerAct s out)) ∨
      (s.peer = [] ∧ peerAct s out = .reply (Config.exchangeReply s.calls out s.ctl.cs0Level s.ctl.cs1Level)) := by
  cases h : s.peer with
  | nil => exact .inr ⟨rfl, by simp [peerAct, h]⟩
  | cons a as => exact .inl (by simp [peerAct, h])

theorem peerAct_of_cons {s : State} {act : PeerAct} {rest : List PeerAct} (h : s.peer = act :: rest) (out : Byte) :
    peerAct s out = act := by unfold peerAct; rw [h]

theorem peerAct_of_head? {s : State} {act : PeerAct} (h : s.peer.head? = some act) (out : Byte) :
    peerAct s out = act := by
  rcases peerAct_cases s out with h' | ⟨h', -⟩
  · rw [h] at h'; exact (Option.some.inj h').symm
  · simp [h'] at h

/-- A peer that keeps its contract answers a byte (spec R146(b)). -/
theorem peerAct_of_ready {s : State} (h : PeerReady s) (out : Byte) : ∃ b, peerAct s out = .reply b := by
  rcases peerAct_cases s out with h' | ⟨-, h'⟩
  · exact h _ h'
  · exact ⟨_, h'⟩

/-- A transfer that completes (spec R143): the peer answered a byte `b`, and this is the state it leaves. -/
def afterTransfer (s : State) (out b : Byte) : State :=
  { s with
    peer := s.peer.tail
    calls := s.calls + 1
    events := s.events ++ [.xfer out b s.ctl.cs0Level s.ctl.cs1Level]
    ctl := interruptLogic { s.ctl with sr := srAfterTransfer s.ctl.sr, rxData := b } }

section AfterTransfer
variable (s : State) (out b : Byte)
@[simp] theorem afterTransfer_ctl : (afterTransfer s out b).ctl =
    interruptLogic { s.ctl with sr := srAfterTransfer s.ctl.sr, rxData := b } := rfl
@[simp] theorem afterTransfer_result : (afterTransfer s out b).result = s.result := rfl
@[simp] theorem afterTransfer_events : (afterTransfer s out b).events =
    s.events ++ [.xfer out b s.ctl.cs0Level s.ctl.cs1Level] := rfl
@[simp] theorem afterTransfer_pending : (afterTransfer s out b).pending = s.pending := rfl
@[simp] theorem afterTransfer_peer : (afterTransfer s out b).peer = s.peer.tail := rfl
@[simp] theorem afterTransfer_calls : (afterTransfer s out b).calls = s.calls + 1 := rfl
@[simp] theorem afterTransfer_platform : (afterTransfer s out b).platform = s.platform := rfl
end AfterTransfer

/-- The transfer, by what the peer does (spec R143, R148, R210). -/
theorem transfer_eq (s : State) (out : Byte) :
    transfer s out =
      match peerAct s out with
      | .reply b => .next (afterTransfer s out b)
      | .reenters _ => .refused .reentrantAccess
      | .neverReturns => .fault .exchangeNeverReturns := by
  have hp : peerAct (transferBegins s) out = peerAct s out := rfl
  unfold transfer exchange
  rw [hp]
  cases peerAct s out <;> rfl

/-- WR_DR, by the gate and by what the peer does (spec R142). -/
theorem execWrDr_eq (v : Word) (s : State) :
    execWrDr v s =
      if transferOk s.ctl then
        match peerAct s (lowByte v) with
        | .reply b => done (afterTransfer { s with ctl := { s.ctl with dr := v } } (lowByte v) b)
        | .reenters _ => .refused .reentrantAccess
        | .neverReturns => .fault .exchangeNeverReturns
      else done { s with ctl := { s.ctl with dr := v } } := by
  have hp : peerAct { s with ctl := { s.ctl with dr := v } } (lowByte v) = peerAct s (lowByte v) := rfl
  unfold execWrDr
  simp only [transfer_eq, hp]
  split
  · cases peerAct s (lowByte v) <;> rfl
  · rfl

/-- All a completed DR write can be (spec R142): gated, or one transfer. -/
theorem execWrDr_next {v : Word} {s t : State} (h : execWrDr v s = .next t) :
    (transferOk s.ctl = false ∧ t = { s with result := none, ctl := { s.ctl with dr := v } }) ∨
    ∃ b, transferOk s.ctl = true ∧ peerAct s (lowByte v) = .reply b ∧
      t = { afterTransfer { s with ctl := { s.ctl with dr := v } } (lowByte v) b with result := none } := by
  rw [execWrDr_eq] at h
  cases hk : transferOk s.ctl with
  | false => simp only [hk, Bool.false_eq_true, if_false, done_eq_next] at h; exact .inl ⟨rfl, h.symm⟩
  | true =>
    simp only [hk, if_true] at h
    cases hp : peerAct s (lowByte v) with
    | reply b => simp only [hp, done_eq_next] at h; exact .inr ⟨b, rfl, rfl, h.symm⟩
    | reenters r => simp only [hp, reduceCtorEq] at h
    | neverReturns => simp only [hp, reduceCtorEq] at h

/-- WR_DR with the gate closed (spec R142). -/
theorem execWrDr_gated {v : Word} {s : State} (h : transferOk s.ctl = false) :
    execWrDr v s = .next { s with result := none, ctl := { s.ctl with dr := v } } := by
  rw [execWrDr_eq, h]
  rfl

/-- WR_DR with the gate open and a peer that answers (spec R142, R143). -/
theorem execWrDr_open {v : Word} {b : Byte} {s : State} (h : transferOk s.ctl = true)
    (hp : peerAct s (lowByte v) = .reply b) :
    execWrDr v s =
      .next { afterTransfer { s with ctl := { s.ctl with dr := v } } (lowByte v) b with result := none } := by
  rw [execWrDr_eq, h, hp]
  rfl

/-- RESET leaves the reset values of spec R41, whatever the record was. -/
theorem resetController_eq (c : Controller) : resetController c = Controller.reset := by
  have h : irqFn 0x00000000 0x00000002 = false := by decide
  simp only [resetController, interruptLogic, chipSelectLogic, effCs0, effCs1, h]
  rfl

end Sys2Proof.Machine
end

