-- ==== Sys2Proof/Laws/PerInstr.lean ====
section
/-! SUPPORT. Family `KeyShape`, one lemma per constructor: the key of a well-formed operation lies in the operation's row of
spec/opcode_table.json (R76). -/

namespace Sys2Proof.Laws.KeyShape

/-- The key of `i` lies in its row. -/
def Statement (i : Instr) : Prop := i.wellFormed = true → i.row.covers i.key = true

/-- The key made from a kind and an aligned offset lies under the mask of the default rows. -/
theorem makeKey_masked (kind : BitVec 2) (off : Offset) (h : alignedOffset off = true) :
    ((kind ++ off : BitVec 32) &&& 0xC0000003) = (kind ++ (0 : BitVec 30) : BitVec 32) := by
  rw [alignedOffset_iff] at h
  have h0 : off.getLsbD 0 = false := by simp only [BitVec.getLsbD, Nat.testBit_zero]; simp; omega
  have h1 : off.getLsbD 1 = false := by simp only [BitVec.getLsbD, Nat.testBit_succ, Nat.testBit_zero]; simp; omega
  have hm : ∀ j : Fin 32, (0xC0000003 : Word).getLsbD j = (decide (j.val < 2) || decide (30 ≤ j.val)) := by decide
  apply BitVec.eq_of_getLsbD_eq
  intro i hi
  have hmi : (0xC0000003 : Word).getLsbD i = (decide (i < 2) || decide (30 ≤ i)) := hm ⟨i, hi⟩
  rw [BitVec.getLsbD_and, hmi, BitVec.getLsbD_append, BitVec.getLsbD_append]
  by_cases h30 : i < 30
  · rcases (by omega : i = 0 ∨ i = 1 ∨ 2 ≤ i) with rfl | rfl | h2
    · rw [if_pos h30, if_pos h30, h0]; rfl
    · rw [if_pos h30, if_pos h30, h1]; rfl
    · have : ¬ i < 2 := by omega
      simp [h30, this, Nat.not_le_of_lt h30]
  · simp [h30, Nat.le_of_not_lt h30]

theorem rdCr1 : Statement .rdCr1 := fun _ => by decide
theorem rdCr2 : Statement .rdCr2 := fun _ => by decide
theorem rdSr : Statement .rdSr := fun _ => by decide
theorem rdDr : Statement .rdDr := fun _ => by decide
theorem rdCsctrl : Statement .rdCsctrl := fun _ => by decide
theorem wrCr1 (v : Word) : Statement (.wrCr1 v) := fun _ => show (Instr.row (.wrCr1 0)).covers (Instr.key (.wrCr1 0)) = true by decide
theorem wrCr2 (v : Word) : Statement (.wrCr2 v) := fun _ => show (Instr.row (.wrCr2 0)).covers (Instr.key (.wrCr2 0)) = true by decide
theorem wrSr (v : Word) : Statement (.wrSr v) := fun _ => show (Instr.row (.wrSr 0)).covers (Instr.key (.wrSr 0)) = true by decide
theorem wrDr (v : Word) : Statement (.wrDr v) := fun _ => show (Instr.row (.wrDr 0)).covers (Instr.key (.wrDr 0)) = true by decide
theorem wrCsctrl (v : Word) : Statement (.wrCsctrl v) := fun _ => show (Instr.row (.wrCsctrl 0)).covers (Instr.key (.wrCsctrl 0)) = true by decide
theorem rdInv (off : Offset) : Statement (.rdInv off) := fun h => by
  simp only [Instr.wellFormed, invalidOffset, Bool.and_eq_true] at h
  simp only [TableRow.covers, Instr.row, Instr.key, makeKey, beq_iff_eq]
  rw [makeKey_masked _ _ h.1]; rfl
theorem wrInv (off : Offset) (v : Word) : Statement (.wrInv off v) := fun h => by
  simp only [Instr.wellFormed, invalidOffset, Bool.and_eq_true] at h
  simp only [TableRow.covers, Instr.row, Instr.key, makeKey, beq_iff_eq]
  rw [makeKey_masked _ _ h.1]; rfl
theorem reset : Statement .reset := fun _ => by decide

end Sys2Proof.Laws.KeyShape
end

