-- ==== Sys2Proof/Tests/Slice0.lean ====
section
/-! SUPPORT. Tests of single steps, with the expected values of spec/95_test_vectors.md and of the rules' examples; the smoke
test of WellFormed; and a witness for the hypotheses of every statement of Certificates/Slice0/Obligations.lean. -/

namespace Sys2Proof.Tests

open Sys2Proof Sys2Proof.Machine

/-! ### States to test on -/

/-- A controller at an observable point: the raw registers given, the booleans and outputs at their definitions (spec R30,
R130, R175). -/
def demoCtl (cr1 cr2 sr csctrl : Word) (rx : Byte) : Controller where
  cr1 := cr1
  cr2 := cr2
  sr := sr
  dr := 0x1234
  rxData := rx
  csctrl := csctrl
  spe := cr1.getLsbD 6
  mstr := cr1.getLsbD 2
  cs0En := csctrl.getLsbD 0
  cs0Act := csctrl.getLsbD 4
  cs1En := csctrl.getLsbD 1
  cs1Act := csctrl.getLsbD 5
  cs0Level := !(csctrl.getLsbD 0 && csctrl.getLsbD 4)
  cs1Level := !(csctrl.getLsbD 1 && csctrl.getLsbD 5)
  irqLevel := (cr2.getLsbD 7 && sr.getLsbD 1) || (cr2.getLsbD 6 && sr.getLsbD 0)
    || (cr2.getLsbD 5 && (sr.getLsbD 2 || sr.getLsbD 3))

/-- A platform whose region has 0x40 bytes, at host address 0x1000. -/
def demoPlatform : Platform :=
  { baseAddr := 0x1000, spareWords := 11, irqLine := 7, cs0Line := 8, cs1Line := 9, byteOrder := .little }

/-- A state with the given controller, requests and peer. -/
def demo (c : Controller) (pending : List Request) (peer : List PeerAct) : State where
  ctl := c
  result := none
  events := []
  pending := pending
  peer := peer
  calls := 0
  platform := demoPlatform

/-- Enabled, master, CS0 effective, nothing received. -/
def ready : Controller := demoCtl 0x44 0x00 0x02 0x11 0x00

/-- The next state of an outcome. -/
def nextOf (o : Host.Outcome State Fault Refusal) : Option State :=
  match o with
  | .next s => some s
  | .fault _ => none
  | .refused _ => none

/-- The refusal of an outcome. -/
def refusalOf (o : Host.Outcome State Fault Refusal) : Option Refusal :=
  match o with
  | .next _ => none
  | .fault _ => none
  | .refused r => some r

/-! ### WellFormed: one ill-formed term for each check -/

theorem test_wellFormed_refuses_misaligned_read : (Instr.rdInv 0x15).wellFormed = false := by decide
theorem test_wellFormed_refuses_register_read : (Instr.rdInv 0x0C).wellFormed = false := by decide
theorem test_wellFormed_refuses_misaligned_write : (Instr.wrInv 0x16 1).wellFormed = false := by decide
theorem test_wellFormed_refuses_register_write : (Instr.wrInv 0x10 1).wellFormed = false := by decide
theorem test_wellFormed_first_invalid_offset : (Instr.rdInv 0x14).wellFormed = true := by decide
theorem test_routed_refuses_outside_region : (Instr.rdInv 0x40).routed demoPlatform.regionSize = false := by decide

/-! ### Decode: every constructor, from the keys of R76 and the vectors of section 2.1 -/

theorem test_decode_rdCr1 : decodeTableWord 32 0b00000000000000000000000000000000 = some .rdCr1 := by decide
theorem test_decode_rdCr2 : decodeTableWord 32 0b00000000000000000000000000000100 = some .rdCr2 := by decide
theorem test_decode_rdSr : decodeTableWord 32 0b00000000000000000000000000001000 = some .rdSr := by decide
theorem test_decode_rdDr : decodeTableWord 32 0b00000000000000000000000000001100 = some .rdDr := by decide
theorem test_decode_rdCsctrl : decodeTableWord 32 0b00000000000000000000000000010000 = some .rdCsctrl := by decide
theorem test_decode_rdInv : decodeTableWord 32 0b00000000000000000000000000010100 = some (.rdInv 0x14) := by decide
theorem test_decode_wrCr1 :
    decode 0x14 ⟨0b01000000000000000000000000000000, 4, 0x44⟩ = .ok (.wrCr1 0x44) := by rfl
theorem test_decode_wrCr2 :
    decode 0x14 ⟨0b01000000000000000000000000000100, 4, 0xE0⟩ = .ok (.wrCr2 0xE0) := by rfl
theorem test_decode_wrSr :
    decode 0x14 ⟨0b01000000000000000000000000001000, 4, 0x0C⟩ = .ok (.wrSr 0x0C) := by rfl
theorem test_decode_wrDr :
    decode 0x14 ⟨0b01000000000000000000000000001100, 4, 0x12345678⟩ = .ok (.wrDr 0x12345678) := by rfl
theorem test_decode_wrCsctrl :
    decode 0x14 ⟨0b01000000000000000000000000010000, 4, 0x11⟩ = .ok (.wrCsctrl 0x11) := by rfl
theorem test_decode_wrInv :
    decode 0x24 ⟨0b01000000000000000000000000100000, 4, 0xFFFFFFFF⟩ = .ok (.wrInv 0x20 0xFFFFFFFF) := by rfl
theorem test_decode_reset : decodeTableWord 32 0b10000000000000000000000000000000 = some .reset := by decide
theorem test_decode_refuses_nonzero_reset : decode 0x40 ⟨0x80000004, 0, 0⟩ = .error .reservedKind := by rfl
theorem test_decode_refuses_reserved_kind : decode 0x40 ⟨0xC0000000, 4, 0⟩ = .error .reservedKind := by rfl
theorem test_decode_refuses_width : decode 0x40 ⟨0x0000000C, 1, 0⟩ = .error .width := by rfl
theorem test_decode_refuses_misaligned : decode 0x40 ⟨0x0000000D, 4, 0⟩ = .error .misaligned := by rfl
theorem test_decode_refuses_unrouted : decode 0xFFC ⟨0x40000FFC, 4, 0⟩ = .error .notRouted := by rfl
theorem test_decode_routes_below_region : decode 0x1000 ⟨0x40000FFC, 4, 5⟩ = .ok (.wrInv 0xFFC 5) := by rfl

/-! ### One step of every operation -/

/-- Section 2.2, rows 1 and 2. -/
theorem test_wrCr1_all_ones :
    (nextOf (exec (.wrCr1 0xFFFFFFFF) State.reset)).map (fun t => (t.ctl.cr1, t.ctl.spe, t.ctl.mstr, t.ctl.sr)) =
      some (0xFFFFFFFF, true, true, 0x02) := by decide
theorem test_wrCr1_bits_clear :
    (nextOf (exec (.wrCr1 0xFFFFFFBB) (demo ready [] []))).map (fun t => (t.ctl.cr1, t.ctl.spe, t.ctl.mstr)) =
      some (0xFFFFFFBB, false, false) := by decide

/-- Example of R102. -/
theorem test_rdCr1 :
    (nextOf (exec .rdCr1 (demo (demoCtl 0xFFFFFFFF 0 2 0 0) [] []))).map (·.result) = some (some 0xFFFFFFFF) := by decide

/-- Section 2.2: reserved bits of CR2 assert nothing; TXEIE does at once. -/
theorem test_wrCr2_reserved_bits :
    (nextOf (exec (.wrCr2 0xFFFFFF1F) State.reset)).map (fun t => (t.ctl.cr2, t.ctl.irqLevel)) =
      some (0xFFFFFF1F, false) := by decide
theorem test_wrCr2_txeie :
    (nextOf (exec (.wrCr2 0x80) State.reset)).map (fun t => (t.ctl.sr, t.ctl.irqLevel)) = some (0x02, true) := by decide

/-- Example of R104. -/
theorem test_rdCr2 :
    (nextOf (exec .rdCr2 (demo (demoCtl 0 0xE0 2 0 0) [] []))).map (·.result) = some (some 0xE0) := by decide

/-- Section 2.2: a read of SR clears nothing. -/
theorem test_rdSr :
    (nextOf (exec .rdSr (demo (demoCtl 0 0 0x03 0 0) [] []))).map (fun t => (t.result, t.ctl.sr)) =
      some (some 0x03, 0x03) := by decide

/-- Section 2.2: the SR-write rows from `sr = 0x0B`, `cr2 = 0x20`: value written, SR after, interrupt after. -/
theorem test_wrSr_rows :
    [(0x00000008, 0x03, false), (0x00000004, 0x0B, true), (0x00000000, 0x0B, true), (0xFFFFFFF3, 0x0B, true),
      (0xFFFFFFFF, 0x03, false)].all (fun (v, sr, irq) =>
        (nextOf (exec (.wrSr v) (demo (demoCtl 0 0x20 0x0B 0 0) [] []))).map (fun t => (t.ctl.sr, t.ctl.irqLevel)) ==
          some (sr, irq)) = true := by decide

/-- UDR clears and is in the error term on a value no operation reaches (section 2.5). -/
theorem test_wrSr_clears_udr :
    (nextOf (exec (.wrSr 0x04) (demo (demoCtl 0 0x20 0x06 0 0) [] []))).map (fun t => (t.ctl.sr, t.ctl.irqLevel)) =
      some (0x02, false) := by decide

/-- Section 2.2. -/
theorem test_rdCsctrl :
    (nextOf (exec .rdCsctrl (demo (demoCtl 0 0 2 0x31 0) [] []))).map (·.result) = some (some 0x31) := by decide

/-- Section 2.3, table V-CS: value written, the two levels, and whether a DR write then transfers. -/
theorem test_wrCsctrl_table :
    [(0x00, true, true, false), (0x01, true, true, false), (0x02, true, true, false), (0x03, true, true, false),
      (0x10, true, true, false), (0x11, false, true, true), (0x12, true, true, false), (0x13, false, true, true),
      (0x20, true, true, false), (0x21, true, true, false), (0x22, true, false, true), (0x23, true, false, true),
      (0x30, true, true, false), (0x31, false, true, true), (0x32, true, false, true), (0x33, false, false, false),
      (0xFFFFFFCC, true, true, false)].all (fun (v, l0, l1, ok) =>
        (nextOf (exec (.wrCsctrl v) (demo ready [] []))).map
          (fun t => (t.ctl.csctrl, t.ctl.cs0Level, t.ctl.cs1Level, transferOk t.ctl)) == some (v, l0, l1, ok)) =
      true := by decide

/-- Section 2.4: the transfer outcomes: SR before, value, reply, byte sent, SR after. -/
theorem test_wrDr_outcomes :
    [(0x02, 0x0000005A, 0xA3, 0x5A, 0x03), (0x03, 0x000000FF, 0x00, 0xFF, 0x0B), (0x0B, 0x00000000, 0xFF, 0x00, 0x0B),
      (0x02, 0x12345678, 0x9C, 0x78, 0x03), (0x02, 0xFFFFFF00, 0x00, 0x00, 0x03)].all (fun (sr, v, b, out, sr') =>
        (nextOf (exec (.wrDr v) (demo (demoCtl 0x44 0 sr 0x11 0x77) [] [.reply b]))).map
          (fun t => (t.ctl.sr, t.ctl.rxData, t.ctl.dr, t.events, t.peer)) ==
          some (sr', b, v, [.xfer out b false true], [])) = true := by decide

/-- Section 2.4, table V-GATE: CR1, CSCTRL, and whether the DR write transfers; `dr` is stored in every case. -/
theorem test_wrDr_gate :
    [(0x00, 0x11, false), (0x40, 0x11, false), (0x04, 0x11, false), (0x44, 0x00, false), (0x44, 0x33, false),
      (0x44, 0x11, true), (0x44, 0x22, true), (0xFFFFFFFF, 0x31, true)].all (fun (cr1, csctrl, ok) =>
        (nextOf (exec (.wrDr 0x5A) (demo (demoCtl cr1 0 0x02 csctrl 0x11) [] [.reply 0xA3]))).map
          (fun t => (t.ctl.dr, t.ctl.sr, t.calls)) == some (0x5A, if ok then (0x03, 1) else (0x02, 0))) = true := by decide

/-- Section 2.4: the DR-read rows: SR before, `rx_data`, value returned, SR after. -/
theorem test_rdDr_rows :
    [(0x0B, 0xA3, 0x000000A3, 0x02), (0x03, 0x80, 0x00000080, 0x02), (0x02, 0x00, 0x00000000, 0x02),
      (0x02, 0x5C, 0x0000005C, 0x02)].all (fun (sr, rx, v, sr') =>
        (nextOf (exec .rdDr (demo (demoCtl 0 0 sr 0 rx) [] []))).map (fun t => (t.result, t.ctl.sr, t.ctl.rxData)) ==
          some (some v, sr', rx)) = true := by decide

/-- Program P4, step 6: the TXE term still holds after the DR read. -/
theorem test_rdDr_txe_term :
    (nextOf (exec .rdDr (demo (demoCtl 0x44 0x80 0x03 0x11 0x55) [] []))).map (fun t => (t.result, t.ctl.irqLevel)) =
      some (some 0x55, true) := by decide

/-- Examples of R109 and R110. -/
theorem test_rdInv :
    (nextOf (exec (.rdInv 0x14) (demo ready [] []))).map (fun t => (t.ctl, t.result, t.events)) =
      some (ready, some 0, [.diag .read 0x14]) := by decide
theorem test_wrInv :
    (nextOf (exec (.wrInv 0x20 0xFFFFFFFF) (demo ready [] []))).map (fun t => (t.ctl, t.result, t.events)) =
      some (ready, none, [.diag .write 0x20]) := by decide

/-- Section 2.6. -/
theorem test_reset :
    (nextOf (exec .reset (demo (demoCtl 0x44 0xE0 0x0B 0x11 0x77) [] []))).map (·.ctl) = some Controller.reset := by decide

/-- Section 2.5, table V-IRQ: CR2 and the level for SR = 0x02, 0x03, 0x0B; and the function on values no operation reaches. -/
theorem test_irqFn_table :
    [(0x00, false, false, false), (0x20, false, false, true), (0x40, false, true, true), (0x60, false, true, true),
      (0x80, true, true, true), (0xA0, true, true, true), (0xC0, true, true, true), (0xE0, true, true, true),
      (0x0000FF1F, false, false, false)].all (fun (cr2, a, b, c) =>
        irqFn cr2 0x02 == a && irqFn cr2 0x03 == b && irqFn cr2 0x0B == c) = true := by decide
theorem test_irqFn_unreachable :
    (irqFn 0x20 0x04, irqFn 0x20 0x08, irqFn 0x20 0x00, irqFn 0x80 0x00) = (true, true, false, false) := by decide

/-- R148 and R210. -/
theorem test_exchange_misuse :
    refusalOf (exec (.wrDr 1) (demo ready [] [.reenters ⟨0, 4, 0⟩])) = some .reentrantAccess ∧
      (match exec (.wrDr 1) (demo ready [] [.neverReturns]) with
        | .fault .exchangeNeverReturns => true
        | .next _ => false
        | .refused _ => false) = true := by decide

/-- The free reply is the one of the call, the byte and the levels (R146(c), (d)); whatever it is, SR is 0x03. -/
theorem test_wrDr_free_reply :
    (nextOf (exec (.wrDr 0x5A) (demo ready [] []))).map (fun t => (t.ctl.rxData, t.ctl.sr)) =
      some (Config.exchangeReply 0 0x5A false true, 0x03) := by rfl

/-! ### The step and the host interface -/

theorem test_step_refuses_narrow :
    refusalOf (step (demo ready [⟨0x0000000C, 1, 0⟩] [])) = some (.notAdmitted .width) := by decide
theorem test_step_takes_the_oldest :
    (nextOf (step (demo ready [⟨0x00000000, 4, 0⟩, ⟨0x80000000, 0, 0⟩] []))).map (fun t => (t.result, t.pending)) =
      some (some 0x44, [⟨0x80000000, 0, 0⟩]) := by decide
theorem test_withFetchWord_runs_first :
    (nextOf (step (State.reset.withFetchWord 32 0x40FF0010))).map (·.events) = some [.diag .write 0xFF0010] := by decide
theorem test_withFetchWord_register :
    (nextOf (step (State.reset.withFetchWord 32 0x00000008))).map (·.result) = some (some 0x02) := by decide
theorem test_route_boundaries :
    (route demoPlatform 0xFFF, route demoPlatform 0x1000, route demoPlatform 0x103F, route demoPlatform 0x1040) =
      (none, some 0x00, some 0x3F, none) := by decide
theorem test_hostWrite_lanes :
    (hostWrite demoPlatform 0x100C [0x78, 0x56, 0x34, 0x12]).map (decode 0x40) =
      some (.ok (.wrDr 0x12345678)) := by rfl
theorem test_hostLines :
    hostLines (demo (demoCtl 0x44 0x80 0x02 0x11 0) [] []) = [(7, true), (8, false), (9, true)] := by decide
theorem test_submit_is_last : (submit (demo ready [⟨8, 4, 0⟩] []) ⟨12, 4, 0⟩).pending = [⟨8, 4, 0⟩, ⟨12, 4, 0⟩] := by decide

/-! ### Witnesses of the statements' hypotheses

A statement whose only hypothesis is that an operation or a step answers a next state has its witness in
`witness_exec_next`, `witness_step_next`. -/

/-- Every controller built by `demoCtl` is consistent. -/
theorem demoCtl_consistent (cr1 cr2 sr csctrl : Word) (rx : Byte) : (demoCtl cr1 cr2 sr csctrl rx).Consistent :=
  ⟨rfl, rfl, rfl, rfl, rfl, rfl, rfl, rfl, rfl⟩

/-- The invariant of the controller, at each of the three values of SR: Obligations.SrReadHasNoSideEffect,
Cr2WriteStoresAndRecomputesInterrupt (value 0x80), TransferStateMachine, SoftwareDeassertsTheInterrupt. -/
theorem witness_inv : ready.Inv ∧ (demoCtl 0x44 0x40 0x03 0x11 7).Inv ∧ (demoCtl 0x44 0x20 0x0B 0x11 7).Inv :=
  ⟨⟨demoCtl_consistent .., .inl rfl⟩, ⟨demoCtl_consistent .., .inr (.inl rfl)⟩, ⟨demoCtl_consistent .., .inr (.inr rfl)⟩⟩

/-- Obligations.DecodeFollowsTheRuleOfDecoding: a key for every clause, at the ends of its range. -/
theorem witness_decode_clauses :
    (3 * 2 ^ 30 ≤ (0xC0000000 : Word).toNat ∧ 3 * 2 ^ 30 ≤ (0xFFFFFFFF : Word).toNat) ∧
    (2 ^ 31 < (0x80000001 : Word).toNat ∧ (0xBFFFFFFF : Word).toNat < 3 * 2 ^ 30) ∧
    (0x80000000 : Word).toNat = 2 ^ 31 ∧
    ((0x7FFFFFFF : Word).toNat < 2 ^ 31 ∧ 8 ≠ 4) ∧
    ((0x7FFFFFFF : Word).toNat < 2 ^ 31 ∧ (0x7FFFFFFF : Word).toNat % 4 ≠ 0) ∧
    ((0x40000014 : Word).toNat < 2 ^ 31 ∧ (0x40000014 : Word).toNat % 4 = 0 ∧ 0x14 ≤ (0x40000014 : Word).toNat % 2 ^ 30) ∧
    ((0x3FFFFFFC : Word).toNat < 2 ^ 30 ∧ (0x3FFFFFFC : Word).toNat % 4 = 0 ∧ (0x3FFFFFFC : Word).toNat < 2 ^ 30) ∧
    ((0x40000010 : Word).toNat = 2 ^ 30 + 0x10 ∧ 0x10 % 4 = 0 ∧ 0x10 < 0x14) ∧
    (demo ready [⟨0xC0000000, 4, 0⟩] []).platform.regionSize = 0x40 := by decide

/-- Obligations.DecodeInvertsEncode: a well-formed, routed operation with operands. -/
theorem witness_encodable :
    (Instr.wrInv 0x14 9).wellFormed = true ∧ (Instr.wrInv 0x14 9).routed 0x18 = true := by decide

/-- Obligations.DecodedRequestCarriesItsOperation, DecodedKeyBelongsToItsTableRow: a request that decodes to a default row. -/
theorem witness_decodes : decode 0x18 ⟨0x40000014, 4, 9⟩ = .ok (.wrInv 0x14 9) := by rfl

/-- Obligations.DecodedKeyBelongsToItsTableRow, second part: a key in an exact row. -/
theorem witness_exact_row : Instr.row .rdDr ∈ exactRows ∧ (Instr.row .rdDr).covers 0x0000000C = true := by decide

/-- Obligations.StepPerformsTheDecodedOperation; NothingIssuedNothingChanges holds of `demo ready [] []`. -/
theorem witness_pending :
    (demo ready [⟨0x0000000C, 4, 0⟩] []).pending = [⟨0x0000000C, 4, 0⟩] ∧
      decode demoPlatform.regionSize ⟨0x0000000C, 4, 0⟩ = .ok .rdDr ∧ (demo ready [] []).pending = [] := ⟨rfl, rfl, rfl⟩

/-- Obligations.StepPerformsExactlyTheOldestRequest, StepKeepsTheInvariant, OnlyAnOpenDrWriteCallsTheExchange: a step from a
state that meets the invariant, which makes an exchange. -/
theorem witness_step_next :
    (demo ready [⟨0x4000000C, 4, 0x5A⟩] [.reply 0xA3]).Inv ∧
      ∃ t, step (demo ready [⟨0x4000000C, 4, 0x5A⟩] [.reply 0xA3]) = .next t ∧
        exchanges t ≠ exchanges (demo ready [⟨0x4000000C, 4, 0x5A⟩] [.reply 0xA3]) := by
  refine ⟨⟨witness_inv.1, ⟨(fun e he => nomatch he), rfl⟩⟩, _, rfl, by decide⟩

/-- Obligations.FieldsChangeOnlyByTheirOperations, StoredDrIsInvisible, ReservedBitsHaveNoFunction (an operation that is none
of the three raw reads), SrBitsMoveOnlyAsTheTableSays (OVR set by the transfer), ReadsReturnTheRawRegister. -/
theorem witness_exec_next :
    (∃ t, exec (.wrDr 0x5A) (demo (demoCtl 0x44 0 0x03 0x11 0) [] [.reply 0xA3]) = .next t ∧
      t.ctl.sr.getLsbD 3 = true) ∧
    (∃ t, exec .rdDr (demo (demoCtl 0x44 0 0x03 0x11 0) [] []) = .next t ∧ t.ctl.sr.getLsbD 0 = false) ∧
    (∃ t, exec (.wrCr1 0x44) State.reset = .next t) ∧ (∃ t, exec (.wrCr2 0x80) State.reset = .next t) ∧
    ∃ t, exec (.wrCsctrl 0x11) State.reset = .next t :=
  ⟨⟨_, rfl, by decide⟩, ⟨_, rfl, by decide⟩, ⟨_, rfl⟩, ⟨_, rfl⟩, ⟨_, rfl⟩⟩

/-- Obligations.ReservedBitsHaveNoFunction: values that differ in reserved bits only. -/
theorem witness_reserved_bits :
    (∀ k ∈ [2, 6], (0x44 : Word).getLsbD k = (0xFFFFFFFF : Word).getLsbD k) ∧
    (∀ k ∈ [5, 6, 7], (0x00 : Word).getLsbD k = (0xFFFFFF1F : Word).getLsbD k) ∧
    (∀ k ∈ [0, 1, 4, 5], (0x11 : Word).getLsbD k = (0xFFFFFFDD : Word).getLsbD k) := by decide

/-- Obligations.RegisterOperationsAreIdempotent. -/
theorem witness_idempotent : Instr.wrSr 8 ∈
    [Instr.rdCr1, .rdCr2, .rdSr, .rdCsctrl, .wrCr1 8, .wrCr2 8, .wrCsctrl 8, .wrSr 8] := by decide

/-- Obligations.BothChipSelectsAssertedGatesEveryTransfer, and the value 0x80 of Cr2WriteStoresAndRecomputesInterrupt. -/
theorem witness_both_selected :
    (0x33 : Word).getLsbD 0 = true ∧ (0x33 : Word).getLsbD 1 = true ∧ (0x33 : Word).getLsbD 4 = true ∧
      (0x33 : Word).getLsbD 5 = true ∧ (0x80 : Word).getLsbD 7 = true := by decide

/-- Obligations.SelectingNeverSendsAGatedByte: the gate is closed, and CSCTRL = 0x11 opens it with a reply lined up. -/
theorem witness_gate_then_open :
    transferOk (demo (demoCtl 0x44 0 2 0 0) [] [.reply 1]).ctl = false ∧
      ∃ t u, exec (.wrDr 0xAB) (demo (demoCtl 0x44 0 2 0 0) [] [.reply 1]) = .next t ∧
        exec (.wrCsctrl 0x11) t = .next u ∧ transferOk u.ctl = true ∧ u.peer = [.reply 1] :=
  ⟨by decide, _, _, rfl, rfl, by decide, rfl⟩

/-- Obligations.TransferExchangesOneByte: a lined-up reply, and none lined up. -/
theorem witness_transfer :
    ready.spe = true ∧ ready.mstr = true ∧ ((ready.cs0En && ready.cs0Act) ^^ (ready.cs1En && ready.cs1Act)) = true ∧
      (demo ready [] [.reply 0xA3]).peer.head? = some (.reply 0xA3) ∧ (demo ready [] []).peer = [] := by decide

/-- Obligations.GatedDrWriteOnlyStores: each of the three ways the gate is closed. -/
theorem witness_gated :
    (demoCtl 0x04 0 2 0x11 0).spe = false ∧ (demoCtl 0x40 0 2 0x11 0).mstr = false ∧
      ((demoCtl 0x44 0 2 0x33 0).cs0En && (demoCtl 0x44 0 2 0x33 0).cs0Act) =
        ((demoCtl 0x44 0 2 0x33 0).cs1En && (demoCtl 0x44 0 2 0x33 0).cs1Act) := by decide

/-- Obligations.MisusedExchangeHasNoStep: both clauses. -/
theorem witness_misuse :
    transferOk ready = true ∧ (demo ready [] [.reenters ⟨8, 4, 0⟩]).peer.head? = some (.reenters ⟨8, 4, 0⟩) ∧
      (demo ready [] [.neverReturns]).peer.head? = some .neverReturns := by decide

/-- Obligations.OverrunKeepsOnlyTheNewestByte, with ERRIE set. -/
theorem witness_overrun :
    transferOk (demoCtl 0x44 0x20 2 0x22 0) = true ∧ (demoCtl 0x44 0x20 2 0x22 0).cr2.getLsbD 5 = true ∧
      (demo (demoCtl 0x44 0x20 2 0x22 0) [] [.reply 1, .reply 2]).peer = [.reply 1, .reply 2] := by decide

/-- Obligations.ReadAfterTransferReturnsTheReply, TransferStateMachine (gate open), EveryOperationCompletes: the peer keeps
its contract, with a reply lined up and with none. -/
theorem witness_peer_ready : transferOk ready = true ∧ PeerReady (demo ready [] [.reply 3]) ∧ PeerReady (demo ready [] []) :=
  ⟨by decide, fun _ h => ⟨3, (Option.some.inj h).symm⟩, fun _ h => nomatch h⟩

/-- Obligations.TransferStateMachine, gate closed: at an observable point. -/
theorem witness_gate_closed_inv : (demoCtl 0x40 0 3 0x11 5).Inv ∧ transferOk (demoCtl 0x40 0 3 0x11 5) = false :=
  ⟨⟨demoCtl_consistent .., .inr (.inl rfl)⟩, by decide⟩

/-- Obligations.ResetEstablishesTheResetValues: RESET completes. -/
theorem witness_reset : ∃ t, exec .reset (demo ready [] []) = .next t := ⟨_, rfl⟩

/-- Obligations.InterruptIsTheOrOfThreeTerms: two consistent controllers that agree on the seven bits and differ elsewhere. -/
theorem witness_interrupt :
    (demoCtl 0 0x20 0x0B 0 0).Consistent ∧ (demoCtl 0x44 0xFF20 0x8B 0x11 9).Consistent ∧
    (∀ k ∈ [5, 6, 7], (0x20 : Word).getLsbD k = (0xFF20 : Word).getLsbD k) ∧
    ∀ k ∈ [0, 1, 2, 3], (0x0B : Word).getLsbD k = (0x8B : Word).getLsbD k :=
  ⟨demoCtl_consistent .., demoCtl_consistent .., by decide, by decide⟩

/-- Obligations.TxeieHoldsTheInterruptLine: at an observable point with TXEIE, a DR write that transfers. -/
theorem witness_txeie :
    (demoCtl 0x44 0x80 2 0x11 0).Inv ∧ (0x80 : Word).getLsbD 7 = true ∧
      ∃ t, exec (.wrDr 0) (demo (demoCtl 0x44 0x80 2 0x11 0) [] [.reply 1]) = .next t :=
  ⟨⟨demoCtl_consistent .., .inl rfl⟩, by decide, _, rfl⟩

/-- Obligations.SoftwareDeassertsTheInterrupt: each clause, from a state in which the line is asserted. -/
theorem witness_deassert :
    (demoCtl 0x44 0x40 0x03 0x11 7).irqLevel = true ∧ (0x40 : Word).getLsbD 7 = false ∧
    (demoCtl 0x44 0x20 0x0B 0x11 7).irqLevel = true ∧ (0x20 : Word).getLsbD 6 = false ∧ (0x08 : Word).getLsbD 3 = true ∧
    (0x1F : Word).getLsbD 7 = false ∧ (0x1F : Word).getLsbD 6 = false ∧ (0x1F : Word).getLsbD 5 = false := by decide

/-- Obligations.StepStopsOnlyOutsideTheContract: a fault, and a refusal of each kind. -/
theorem witness_stops :
    step (demo ready [⟨0x4000000C, 4, 1⟩] [.neverReturns]) = .fault .exchangeNeverReturns ∧
    step (demo ready [⟨0x4000000C, 4, 1⟩] [.reenters ⟨8, 4, 0⟩]) = .refused .reentrantAccess ∧
    step (demo ready [⟨0x0000000D, 4, 1⟩] []) = .refused (.notAdmitted .misaligned) := ⟨rfl, rfl, rfl⟩

/-- Obligations.HostAddressReachesItsOffset: the last address of the region, and the least and the largest region. -/
theorem witness_route :
    route demoPlatform 0x103F = some 0x3F ∧ (0x14 ≤ 0x14 ∧ 0x14 % 4 = 0) ∧ 2 ^ 30 % 4 = 0 := by decide

/-- Obligations.NarrowAndMisalignedAccessesHaveNoStep: each clause. -/
theorem witness_narrow_and_misaligned :
    hostRead demoPlatform 0x100C 1 = some ⟨0x0000000C, 1, 0⟩ ∧
    hostWrite demoPlatform 0x100C [1, 2] = some ⟨0x4000000C, 2, 0⟩ ∧
    (hostRead demoPlatform 0x100D 4 = some ⟨0x0000000D, 4, 0⟩ ∧ (0x100D - 0x1000) % 4 ≠ 0) ∧
    (hostWrite demoPlatform 0x100E [1, 0, 0, 0] = some ⟨0x4000000E, 4, 1⟩ ∧ (0x100E - 0x1000) % 4 ≠ 0) := by decide

/-- Obligations.RestoreGivesBackTheController: a consistent controller is not the one restored into. -/
theorem witness_restore : ready.Consistent ∧ ready ≠ Controller.reset := ⟨demoCtl_consistent .., by decide⟩

end Sys2Proof.Tests
end

section
/-! PROOF. The step with nothing issued (spec R6; log 2). -/

namespace Sys2Proof.Machine

/-- An empty queue has no next request. -/
theorem fetch_of_pending_nil {s : State} (h : s.pending = []) : fetch s = none := by
  rw [fetch, h]

/-- With no next request the block idles. -/
theorem step_of_fetch_none {s : State} (h : fetch s = none) : step s = idle s := by
  rw [step, h]

end Sys2Proof.Machine

namespace Sys2Proof.Proofs

open Sys2Proof.Machine

/-- Settles O7: an empty queue fetches nothing, so the step idles, and idling answers the same state. -/
theorem nothingIssuedNothingChanges : Obligations.NothingIssuedNothingChanges := by
  intro s hs
  calc step s = idle s := step_of_fetch_none (fetch_of_pending_nil hs)
    _ = .next s := idle_eq s

end Sys2Proof.Proofs
end

section
/-! PROOF. What an operation can do, once (spec R76, R101): the quiet next state, which makes no exchange, or one transfer.
Every later proof about an operation goes through `exec_of_quiet`, `exec_wrDr_open` and their converse `exec_next`. -/

namespace Sys2Proof.Machine

/-- The operation makes no exchange on this state: it is no DR write, or its gate is closed (spec R140, R141). -/
def Quiet (i : Instr) (s : State) : Prop := ∀ v, i = .wrDr v → transferOk s.ctl = false

/-- The controller that an operation without an exchange leaves. -/
def quietCtl : Instr → Controller → Controller
  | .rdCr1, c | .rdCr2, c | .rdSr, c | .rdCsctrl, c | .rdInv _, c | .wrInv _ _, c => c
  | .rdDr, c => interruptLogic { c with sr := srAfterDrRead c.sr }
  | .wrCr1 v, c => { c with cr1 := v, spe := bit v cr1Spe, mstr := bit v cr1Mstr }
  | .wrCr2 v, c => interruptLogic { c with cr2 := v }
  | .wrSr v, c => interruptLogic { c with sr := srAfterWrite c.sr v }
  | .wrDr v, c => { c with dr := v }
  | .wrCsctrl v, c =>
    chipSelectLogic
      { c with
        csctrl := v
        cs0En := bit v csctrlCs0En, cs1En := bit v csctrlCs1En
        cs0Act := bit v csctrlCs0Act, cs1Act := bit v csctrlCs1Act }
  | .reset, _ => Controller.reset

/-- What an operation returns (spec R70, R73). -/
def returned : Instr → Controller → Option Word
  | .rdCr1, c => some c.cr1
  | .rdCr2, c => some c.cr2
  | .rdSr, c => some c.sr
  | .rdDr, c => some (zext32 c.rxData)
  | .rdCsctrl, c => some c.csctrl
  | .rdInv _, _ => some 0x00000000
  | .wrCr1 _, _ | .wrCr2 _, _ | .wrSr _, _ | .wrDr _, _ | .wrCsctrl _, _ | .wrInv _ _, _ | .reset, _ => none

/-- The diagnostics an operation raises (spec R109, R110). -/
def raised : Instr → List Event
  | .rdInv off => [.diag .read off]
  | .wrInv off _ => [.diag .write off]
  | .rdCr1 | .rdCr2 | .rdSr | .rdDr | .rdCsctrl => []
  | .wrCr1 _ | .wrCr2 _ | .wrSr _ | .wrDr _ | .wrCsctrl _ | .reset => []

/-- The state after an operation that makes no exchange. -/
def afterQuiet (i : Instr) (s : State) : State :=
  { s with ctl := quietCtl i s.ctl, result := returned i s.ctl, events := s.events ++ raised i }

/-- The state after a DR write of `v` that exchanged its low byte for `b` (spec R142, R143). -/
def afterOpenWrite (v : Word) (b : Byte) (s : State) : State :=
  { afterTransfer { s with ctl := { s.ctl with dr := v } } (lowByte v) b with result := none }

@[simp] theorem afterQuiet_ctl (i : Instr) (s : State) : (afterQuiet i s).ctl = quietCtl i s.ctl := rfl
@[simp] theorem afterQuiet_events (i : Instr) (s : State) : (afterQuiet i s).events = s.events ++ raised i := rfl

@[simp] theorem afterOpenWrite_ctl (v : Word) (b : Byte) (s : State) : (afterOpenWrite v b s).ctl =
    interruptLogic { s.ctl with dr := v, sr := srAfterTransfer s.ctl.sr, rxData := b } := rfl
@[simp] theorem afterOpenWrite_events (v : Word) (b : Byte) (s : State) : (afterOpenWrite v b s).events =
    s.events ++ [.xfer (lowByte v) b s.ctl.cs0Level s.ctl.cs1Level] := rfl

/-- An operation without an exchange completes, with this state (spec R101). -/
theorem exec_of_quiet {i : Instr} {s : State} (h : Quiet i s) : exec i s = .next (afterQuiet i s) := by
  have noDiag : s.events ++ [] = s.events := List.append_nil _
  cases i with
  | rdInv off => rfl
  | wrInv off v => rfl
  | wrDr v => simp only [exec, execWrDr_gated (h v rfl), afterQuiet, quietCtl, returned, raised, noDiag]
  | reset => simp only [exec, execReset, done, resetController_eq, afterQuiet, quietCtl, returned, raised, noDiag]
  | rdCr1 | rdCr2 | rdSr | rdDr | rdCsctrl => simp only [afterQuiet, raised, noDiag]; rfl
  | wrCr1 v | wrCr2 v | wrSr v | wrCsctrl v => simp only [afterQuiet, raised, noDiag]; rfl

/-- A DR write with the gate open and a peer that answers completes, with this state (spec R142, R143). -/
theorem exec_wrDr_open {v : Word} {b : Byte} {s : State} (h : transferOk s.ctl = true)
    (hp : peerAct s (lowByte v) = .reply b) : exec (.wrDr v) s = .next (afterOpenWrite v b s) :=
  execWrDr_open h hp

/-- All a completed operation can be: one without an exchange, or a DR write with the gate open and a peer that answered. -/
theorem exec_next {i : Instr} {s t : State} (h : exec i s = .next t) :
    (Quiet i s ∧ t = afterQuiet i s) ∨
    ∃ v b, i = .wrDr v ∧ transferOk s.ctl = true ∧ peerAct s (lowByte v) = .reply b ∧ t = afterOpenWrite v b s := by
  by_cases hq : Quiet i s
  · rw [exec_of_quiet hq] at h
    exact .inl ⟨hq, (Host.Outcome.next.inj h).symm⟩
  · obtain ⟨v, rfl, hgate⟩ : ∃ v, i = .wrDr v ∧ ¬ transferOk s.ctl = false := by simpa [Quiet] using hq
    obtain ⟨hclosed, -⟩ | ⟨b, hopen, hp, ht⟩ := execWrDr_next h
    · exact absurd hclosed hgate
    · exact .inr ⟨v, b, rfl, hopen, hp, ht⟩

end Sys2Proof.Machine
end

section
/-! PROOF. What a step can do, once (spec R56, R60, R75), and what the decoder admits. -/

namespace Sys2Proof.Machine

theorem fetch_of_pending_cons {s : State} {r : Request} {rest : List Request} (h : s.pending = r :: rest) :
    fetch s = some (r, { s with pending := rest }) := by
  rw [fetch, h]

/-- The oldest request decodes: the step performs its operation. -/
theorem step_of_decode_ok {s : State} {r : Request} {rest : List Request} {i : Instr} (h : s.pending = r :: rest)
    (hd : decode s.platform.regionSize r = .ok i) : step s = exec i { s with pending := rest } := by
  simp only [step, fetch_of_pending_cons h, hd]

/-- The oldest request is refused: the step is too. -/
theorem step_of_decode_error {s : State} {r : Request} {rest : List Request} {why : Reject} (h : s.pending = r :: rest)
    (hd : decode s.platform.regionSize r = .error why) : step s = refuse why := by
  simp only [step, fetch_of_pending_cons h, hd]

/-- All a step with a next state can be: idle, or the oldest request decoded and performed. -/
theorem step_next {s t : State} (h : step s = .next t) :
    (s.pending = [] ∧ t = s) ∨
    ∃ r rest i, s.pending = r :: rest ∧ decode s.platform.regionSize r = .ok i ∧
      exec i { s with pending := rest } = .next t := by
  cases hs : s.pending with
  | nil =>
    rw [step_of_fetch_none (fetch_of_pending_nil hs), idle_eq] at h
    exact .inl ⟨rfl, (Host.Outcome.next.inj h).symm⟩
  | cons r rest =>
    cases hd : decode s.platform.regionSize r with
    | error why => rw [step_of_decode_error hs hd] at h; cases h
    | ok i => exact .inr ⟨r, rest, i, rfl, hd, step_of_decode_ok hs hd ▸ h⟩

end Sys2Proof.Machine

namespace Sys2Proof

/-- The READ rows give a well-formed operation at an aligned offset, and at that offset (spec R75). -/
theorem readAt_wellFormed {off : Offset} (h : alignedOffset off = true) :
    (readAt off).wellFormed = true ∧ (readAt off).offset? = some off := by
  unfold readAt
  split_ifs with h0 h4 h8 hC h10
  case neg => exact ⟨(invalidOffset_iff off).2 ⟨h, h0, h4, h8, hC, h10⟩, rfl⟩
  all_goals subst off; exact ⟨rfl, rfl⟩

/-- The WRITE rows give a well-formed operation at an aligned offset, and at that offset (spec R75). -/
theorem writeAt_wellFormed {off : Offset} (v : Word) (h : alignedOffset off = true) :
    (writeAt off v).wellFormed = true ∧ (writeAt off v).offset? = some off := by
  unfold writeAt
  split_ifs with h0 h4 h8 hC h10
  case neg => exact ⟨(invalidOffset_iff off).2 ⟨h, h0, h4, h8, hC, h10⟩, rfl⟩
  all_goals subst off; exact ⟨rfl, rfl⟩

theorem routed_of_offset {region : Nat} {i : Instr} {off : Offset} (hi : i.offset? = some off)
    (h : off.toNat < region) : i.routed region = true := by
  simp only [Instr.routed, hi, decide_eq_true h]

/-- What decodes is well-formed and routed (spec R53, R55, R75). -/
theorem wellFormed_routed_of_decode {region : Nat} {r : Request} {i : Instr} (h : decode region r = .ok i) :
    i.wellFormed = true ∧ i.routed region = true := by
  unfold decode at h
  cases hk : keyKind r.key with
  | reserved => simp only [hk, reduceCtorEq] at h
  | reset =>
    simp only [hk] at h
    split_ifs at h
    cases h
    exact ⟨rfl, rfl⟩
  | read =>
    cases ha : admission region r.size (keyOffset r.key) with
    | some why => simp only [hk, ha, reduceCtorEq] at h
    | none =>
      simp only [hk, ha, Except.ok.injEq] at h
      obtain ⟨-, haligned, hregion⟩ := admission_eq_none ha
      obtain ⟨hwf, hoff⟩ := readAt_wellFormed haligned
      exact h ▸ ⟨hwf, routed_of_offset hoff hregion⟩
  | write =>
    cases ha : admission region r.size (keyOffset r.key) with
    | some why => simp only [hk, ha, reduceCtorEq] at h
    | none =>
      simp only [hk, ha, Except.ok.injEq] at h
      obtain ⟨-, haligned, hregion⟩ := admission_eq_none ha
      obtain ⟨hwf, hoff⟩ := writeAt_wellFormed r.data haligned
      exact h ▸ ⟨hwf, routed_of_offset hoff hregion⟩

end Sys2Proof
end

section
/-! PROOF. How SR moves (spec R25, R35, R36). -/

namespace Sys2Proof.Machine

/-- All a completed operation can do to SR (spec R25): keep it, or one of four updates. -/
theorem exec_sr {i : Instr} {s t : State} (h : exec i s = .next t) :
    t.ctl.sr = s.ctl.sr ∨
    (i = .rdDr ∧ t.ctl.sr = srAfterDrRead s.ctl.sr) ∨
    (∃ v, i = .wrSr v ∧ t.ctl.sr = srAfterWrite s.ctl.sr v) ∨
    (∃ v, i = .wrDr v ∧ transferOk s.ctl = true ∧ t.ctl.sr = srAfterTransfer s.ctl.sr) ∨
    (i = .reset ∧ t.ctl.sr = 0x00000002) := by
  obtain ⟨-, rfl⟩ | ⟨v, b, rfl, hopen, -, rfl⟩ := exec_next h
  · cases i with
    | rdDr => exact .inr (.inl ⟨rfl, rfl⟩)
    | wrSr v => exact .inr (.inr (.inl ⟨v, rfl, rfl⟩))
    | reset => exact .inr (.inr (.inr (.inr ⟨rfl, rfl⟩)))
    | rdCr1 | rdCr2 | rdSr | rdCsctrl | rdInv off => exact .inl rfl
    | wrCr1 v | wrCr2 v | wrDr v | wrCsctrl v | wrInv off v => exact .inl rfl
  · exact .inr (.inr (.inr (.inl ⟨v, rfl, hopen, rfl⟩)))

/-- SR after reset, bit by bit (spec R41): TXE and nothing else. -/
theorem getLsbD_srReset (k : Nat) : (0x00000002 : Word).getLsbD k = decide (k = 1) := by
  rw [show (0x00000002 : Word) = BitVec.twoPow 32 1 from rfl, BitVec.getLsbD_twoPow]
  simp [eq_comm]

/-- With UDR clear an SR write can only clear OVR (spec R107). -/
theorem srAfterWrite_of_udr_clear {sr v : Word} (h : sr.getLsbD 2 = false) :
    srAfterWrite sr v = if v.getLsbD 3 then setBit sr srOvr false else sr := by
  apply BitVec.eq_of_getLsbD_eq
  intro k _
  rw [getLsbD_srAfterWrite, apply_ite (BitVec.getLsbD · k), getLsbD_setBit _ _ _ _ (by decide)]
  by_cases h2 : k = 2
  · subst h2; rw [h]; simp
  by_cases h3 : k = 3
  · subst h3; cases v.getLsbD 3 <;> simp
  · simp [h2, h3]

/-- Every operation keeps SR among its three values (spec R36). -/
theorem exec_srLegal {i : Instr} {s t : State} (h : exec i s = .next t) (hs : s.ctl.SrLegal) : t.ctl.SrLegal := by
  unfold Controller.SrLegal at *
  obtain hsr | ⟨-, hsr⟩ | ⟨v, -, hsr⟩ | ⟨v, -, -, hsr⟩ | ⟨-, hsr⟩ := exec_sr h <;> rw [hsr]
  case inl => exact hs
  case inr.inr.inl =>
    have hudr : s.ctl.sr.getLsbD 2 = false := by rcases hs with h | h | h <;> rw [h] <;> decide
    rw [srAfterWrite_of_udr_clear hudr]
    split_ifs
    · rcases hs with h | h | h <;> rw [h] <;> decide
    · exact hs
  case inr.inr.inr.inr => exact .inl rfl
  all_goals rcases hs with h | h | h <;> rw [h] <;> decide

end Sys2Proof.Machine

namespace Sys2Proof.Proofs

open Sys2Proof.Machine

/-- Settles O34: of the five things an operation can do to SR (`exec_sr`), each moves the bits that its update names. -/
theorem srBitsMoveOnlyAsTheTableSays : Obligations.SrBitsMoveOnlyAsTheTableSays := by
  intro i s t k h
  obtain hsr | ⟨rfl, hsr⟩ | ⟨v, rfl, hsr⟩ | ⟨v, rfl, hopen, hsr⟩ | ⟨rfl, hsr⟩ := exec_sr h <;> rw [hsr]
  · exact ⟨fun h0 h1 => absurd (h0.symm.trans h1) (by decide), fun h1 h0 => absurd (h0.symm.trans h1) (by decide)⟩
  · rw [getLsbD_srAfterDrRead]
    exact ⟨fun h0 h1 => by simp [h0] at h1, fun h1 h0 => .inl ⟨rfl, by simpa [h1, or_iff_not_imp_left] using h0⟩⟩
  · rw [getLsbD_srAfterWrite]
    exact ⟨fun h0 h1 => by simp [h0] at h1,
      fun h1 h0 => .inr (.inl ⟨v, rfl, by simpa [h1, or_iff_not_imp_left] using h0⟩)⟩
  · rw [getLsbD_srAfterTransfer]
    constructor
    · intro h0 h1
      refine .inl ⟨v, rfl, hopen, ?_⟩
      split_ifs at h1 with h01 _ h3
      · exact h01.imp_right .inl
      · subst h3
        rw [h0, Bool.false_or] at h1
        exact .inr (.inr ⟨rfl, h1⟩)
      · exact absurd (h0.symm.trans h1) (by decide)
    · intro h1 h0
      refine .inr (.inr (.inl ⟨v, rfl, hopen, ?_⟩))
      split_ifs at h0 with _ h7 h3
      · exact h7
      · subst h3
        rw [h1] at h0
        cases h0
      · exact absurd (h0.symm.trans h1) (by decide)
  · rw [getLsbD_srReset]
    exact ⟨fun _ h1 => .inr ⟨rfl, of_decide_eq_true h1⟩,
      fun _ h0 => .inr (.inr (.inr ⟨rfl, of_decide_eq_false h0⟩))⟩

end Sys2Proof.Proofs
end

section
/-! PROOF. The invariant of the machine (spec R31, R33, R34, R36, R109, R110, R146). -/

namespace Sys2Proof.Machine

/-- The reset values follow their definitions (spec R41). -/
theorem reset_consistent : Controller.reset.Consistent :=
  ⟨rfl, rfl, rfl, rfl, rfl, rfl, rfl, rfl, by decide⟩

/-- Every operation without an exchange keeps the booleans and the outputs at their definitions: what it sets it derives
(spec R31, R33, R34). -/
theorem quietCtl_consistent (i : Instr) {c : Controller} (h : c.Consistent) : (quietCtl i c).Consistent := by
  cases i with
  | rdCr1 | rdCr2 | rdSr | rdCsctrl | rdInv off | wrInv off v => exact h
  | rdDr | wrCr2 v | wrSr v => exact { h with irqLevel_eq := rfl }
  | wrCr1 v => exact { h with spe_eq := rfl, mstr_eq := rfl }
  | wrDr v => exact { h with }
  | wrCsctrl v =>
    exact { h with
      cs0En_eq := rfl, cs1En_eq := rfl, cs0Act_eq := rfl, cs1Act_eq := rfl, cs0Level_eq := rfl, cs1Level_eq := rfl }
  | reset => exact reset_consistent

theorem exec_consistent {i : Instr} {s t : State} (h : exec i s = .next t) (hs : s.ctl.Consistent) :
    t.ctl.Consistent := by
  obtain ⟨-, rfl⟩ | ⟨v, b, -, -, -, rfl⟩ := exec_next h
  · exact quietCtl_consistent i hs
  · exact { hs with irqLevel_eq := rfl }

/-- With the gate open exactly one chip-select output is asserted (spec R141, R33). -/
theorem levels_ne_of_transferOk {c : Controller} (hc : c.Consistent) (h : transferOk c = true) :
    c.cs0Level ≠ c.cs1Level := by
  obtain ⟨-, -, heff⟩ := (transferOk_eq_true c).1 h
  rw [hc.cs0Level_eq, hc.cs1Level_eq]
  exact fun heq => heff (Bool.not_inj heq)

/-- Only an operation at an invalid offset raises a diagnostic, and it names that offset (spec R109, R110). -/
theorem raised_legal {i : Instr} {p : Platform} (hwf : i.wellFormed = true) (hr : i.routed p.regionSize = true) :
    ∀ e ∈ raised i, e.Legal p := by
  intro e he
  cases i with
  | rdInv off | wrInv off v =>
    obtain rfl := List.mem_singleton.1 he
    exact ⟨hwf, of_decide_eq_true hr⟩
  | rdCr1 | rdCr2 | rdSr | rdDr | rdCsctrl | reset => cases he
  | wrCr1 v | wrCr2 v | wrSr v | wrDr v | wrCsctrl v => cases he

theorem raised_filter_isExchange (i : Instr) : (raised i).filter Event.isExchange = [] := by
  cases i <;> rfl

@[simp] theorem exchanges_afterQuiet (i : Instr) (s : State) : exchanges (afterQuiet i s) = exchanges s := by
  simp [exchanges, raised_filter_isExchange]

@[simp] theorem exchanges_afterOpenWrite (v : Word) (b : Byte) (s : State) : exchanges (afterOpenWrite v b s) =
    exchanges s ++ [.xfer (lowByte v) b s.ctl.cs0Level s.ctl.cs1Level] := by
  simp [exchanges, Event.isExchange]

/-- An admitted operation keeps the record sound: it adds legal diagnostics only, or one exchange and one call. -/
theorem exec_recordSound {i : Instr} {s t : State} (h : exec i s = .next t) (hwf : i.wellFormed = true)
    (hr : i.routed s.platform.regionSize = true) (hc : s.ctl.Consistent) (hs : s.RecordSound) : t.RecordSound := by
  obtain ⟨-, rfl⟩ | ⟨v, b, -, hopen, -, rfl⟩ := exec_next h
  · exact {
      legal := List.forall_mem_append.2 ⟨hs.legal, raised_legal hwf hr⟩
      counted := by rw [exchanges_afterQuiet]; exact hs.counted }
  · have hne : s.ctl.cs0Level ≠ s.ctl.cs1Level := levels_ne_of_transferOk hc hopen
    exact {
      legal := List.forall_mem_append.2 ⟨hs.legal, List.forall_mem_singleton.2 hne⟩
      counted := by
        rw [exchanges_afterOpenWrite, List.length_append, ← hs.counted]
        rfl }

/-- Every admitted operation keeps the invariant. -/
theorem exec_inv {i : Instr} {s t : State} (h : exec i s = .next t) (hwf : i.wellFormed = true)
    (hr : i.routed s.platform.regionSize = true) (hs : s.Inv) : t.Inv where
  ctl := ⟨exec_consistent h hs.ctl.consistent, exec_srLegal h hs.ctl.srLegal⟩
  record := exec_recordSound h hwf hr hs.ctl.consistent hs.record

/-- The invariant does not speak of the queue. -/
theorem State.Inv.withPending {s : State} (h : s.Inv) (rest : List Request) : State.Inv { s with pending := rest } :=
  ⟨h.ctl, h.record.legal, h.record.counted⟩

end Sys2Proof.Machine

namespace Sys2Proof.Proofs

open Sys2Proof.Machine

/-- Settles O35: a step idles or performs an operation that decoded, and what decodes is admitted, so that it keeps the
invariant. -/
theorem stepKeepsTheInvariant : Obligations.StepKeepsTheInvariant := by
  intro s t hs h
  obtain ⟨-, rfl⟩ | ⟨r, rest, i, -, hd, he⟩ := step_next h
  · exact hs
  · obtain ⟨hwf, hr⟩ := wellFormed_routed_of_decode hd
    exact exec_inv he hwf hr (hs.withPending rest)

end Sys2Proof.Proofs
end

section
/-! PROOF. Two runs compared (spec R26, R29, R39): the stored word of DR and the reserved bits have no function. -/

namespace Sys2Proof.Machine

/-- An operation without an exchange does not look at `dr`. -/
theorem quietCtl_withDr (i : Instr) (c : Controller) (d : Word) :
    ∃ e, quietCtl i { c with dr := d } = { quietCtl i c with dr := e } := by
  cases i with
  | wrDr v => exact ⟨v, rfl⟩
  | reset => exact ⟨0x00000000, rfl⟩
  | rdCr1 | rdCr2 | rdSr | rdDr | rdCsctrl | rdInv off => exact ⟨d, rfl⟩
  | wrCr1 v | wrCr2 v | wrSr v | wrCsctrl v | wrInv off v => exact ⟨d, rfl⟩

/-- No operation returns `dr`: a DR read returns `rx_data` (spec R150). -/
theorem returned_withDr (i : Instr) (c : Controller) (d : Word) : returned i { c with dr := d } = returned i c := by
  cases i <;> rfl

/-- The interrupt function looks at the three enables of CR2 only (spec R10). -/
theorem irqFn_congr {a b : Word} (h : ∀ k ∈ [5, 6, 7], a.getLsbD k = b.getLsbD k) (sr : Word) :
    irqFn a sr = irqFn b sr := by
  rw [irqFn_eq, irqFn_eq, h 5 (by decide), h 6 (by decide), h 7 (by decide)]

/-- A controller with other stored words of CR1, CR2 and CSCTRL, its booleans and outputs kept. -/
def Controller.withRaw (c : Controller) (x y z : Word) : Controller := { c with cr1 := x, cr2 := y, csctrl := z }

/-- The interrupt logic after a change of the raw words that keeps the three enables. -/
theorem interruptLogic_withRaw {c : Controller} {x y z : Word} (h : ∀ k ∈ [5, 6, 7], y.getLsbD k = c.cr2.getLsbD k) :
    interruptLogic (c.withRaw x y z) = (interruptLogic c).withRaw x y z := by
  simp only [interruptLogic, Controller.withRaw, irqFn_congr h]

/-- An operation without an exchange looks at the derived booleans and the three enables, not at the raw words (spec R29). -/
theorem quietCtl_withRaw (i : Instr) {c : Controller} {x y z : Word}
    (h : ∀ k ∈ [5, 6, 7], y.getLsbD k = c.cr2.getLsbD k) :
    ∃ x' y' z', quietCtl i (c.withRaw x y z) = (quietCtl i c).withRaw x' y' z' := by
  cases i with
  | wrCr1 v => exact ⟨v, y, z, rfl⟩
  | wrCr2 v => exact ⟨x, v, z, rfl⟩
  | wrCsctrl v => exact ⟨x, y, v, rfl⟩
  | rdDr => exact ⟨x, y, z, interruptLogic_withRaw (c := { c with sr := srAfterDrRead c.sr }) h⟩
  | wrSr v => exact ⟨x, y, z, interruptLogic_withRaw (c := { c with sr := srAfterWrite c.sr v }) h⟩
  | reset => exact ⟨0x00000000, 0x00000000, 0x00000000, rfl⟩
  | rdCr1 | rdCr2 | rdSr | rdCsctrl | rdInv off => exact ⟨x, y, z, rfl⟩
  | wrDr v | wrInv off v => exact ⟨x, y, z, rfl⟩

/-- Only the three raw reads return a raw word of CR1, CR2 or CSCTRL. -/
theorem returned_withRaw {i : Instr} (c : Controller) (x y z : Word) (h1 : i ≠ .rdCr1) (h2 : i ≠ .rdCr2)
    (h3 : i ≠ .rdCsctrl) : returned i (c.withRaw x y z) = returned i c := by
  cases i with
  | rdCr1 => exact absurd rfl h1
  | rdCr2 => exact absurd rfl h2
  | rdCsctrl => exact absurd rfl h3
  | rdSr | rdDr | rdInv off | reset => rfl
  | wrCr1 v | wrCr2 v | wrSr v | wrDr v | wrCsctrl v | wrInv off v => rfl

/-- A transfer looks at the derived booleans and the three enables, not at the raw words. -/
theorem afterOpenWrite_withRaw (v : Word) (r : Byte) {s : State} {x y z : Word}
    (h : ∀ k ∈ [5, 6, 7], y.getLsbD k = s.ctl.cr2.getLsbD k) :
    afterOpenWrite v r { s with ctl := s.ctl.withRaw x y z } =
      { afterOpenWrite v r s with ctl := (afterOpenWrite v r s).ctl.withRaw x y z } :=
  congrArg (fun ctl => { afterOpenWrite v r s with ctl := ctl })
    (interruptLogic_withRaw (c := { s.ctl with dr := v, sr := srAfterTransfer s.ctl.sr, rxData := r }) h)

/-- Every operation but the three raw reads, from states that differ in raw words and agree on the derived booleans and the
three enables, leads to states that differ in raw words at most. -/
theorem exec_withRaw {i : Instr} {s t : State} {a b c : Word} (hb : ∀ k ∈ [5, 6, 7], b.getLsbD k = s.ctl.cr2.getLsbD k)
    (h1 : i ≠ .rdCr1) (h2 : i ≠ .rdCr2) (h3 : i ≠ .rdCsctrl) (h : exec i s = .next t) :
    ∃ x y z, exec i { s with ctl := s.ctl.withRaw a b c } = .next { t with ctl := t.ctl.withRaw x y z } := by
  obtain ⟨hq, rfl⟩ | ⟨v, r, rfl, hopen, hp, rfl⟩ := exec_next h
  · have hq' : Quiet i { s with ctl := s.ctl.withRaw a b c } := hq
    obtain ⟨x, y, z, hctl⟩ := quietCtl_withRaw i hb (x := a) (z := c)
    refine ⟨x, y, z, ?_⟩
    rw [exec_of_quiet hq', afterQuiet, hctl, returned_withRaw _ _ _ _ h1 h2 h3]
    rfl
  · refine ⟨a, b, c, ?_⟩
    rw [exec_wrDr_open (s := { s with ctl := s.ctl.withRaw a b c }) hopen hp, afterOpenWrite_withRaw v r hb]

end Sys2Proof.Machine

namespace Sys2Proof.Proofs

open Sys2Proof.Machine

/-- Settles O39: without an exchange only the new controller's `dr` can differ; with one, the written word overwrites it. -/
theorem storedDrIsInvisible : Obligations.StoredDrIsInvisible := by
  intro i s t d h
  obtain ⟨hq, rfl⟩ | ⟨v, b, rfl, hopen, hp, rfl⟩ := exec_next h
  · have hq' : Quiet i { s with ctl := { s.ctl with dr := d } } := hq
    obtain ⟨e, he⟩ := quietCtl_withDr i s.ctl d
    refine ⟨e, ?_, rfl⟩
    rw [exec_of_quiet hq', afterQuiet, he, returned_withDr]
    rfl
  · exact ⟨v, exec_wrDr_open (s := { s with ctl := { s.ctl with dr := d } }) hopen hp, rfl⟩

/-- Settles O40: the first three clauses compare what the written register derives from the two values; the last is
`exec_withRaw`. -/
theorem reservedBitsHaveNoFunction : Obligations.ReservedBitsHaveNoFunction := by
  refine ⟨?_, ?_, ?_, ?_⟩
  · intro v w s t hvw h
    have hspe : bit w cr1Spe = bit v cr1Spe := (hvw 6 (by decide)).symm
    have hmstr : bit w cr1Mstr = bit v cr1Mstr := (hvw 2 (by decide)).symm
    obtain rfl := done_eq_next.1 h
    exact ⟨by rw [exec, execWrCr1, hspe, hmstr]; rfl, rfl⟩
  · intro v w s t hvw h
    have hirq : irqFn w s.ctl.sr = irqFn v s.ctl.sr := irqFn_congr (fun k hk => (hvw k hk).symm) _
    obtain rfl := done_eq_next.1 h
    exact ⟨by rw [exec, execWrCr2, interruptLogic, hirq]; rfl, rfl⟩
  · intro v w s t hvw h
    have hcs0En : bit w csctrlCs0En = bit v csctrlCs0En := (hvw 0 (by decide)).symm
    have hcs1En : bit w csctrlCs1En = bit v csctrlCs1En := (hvw 1 (by decide)).symm
    have hcs0Act : bit w csctrlCs0Act = bit v csctrlCs0Act := (hvw 4 (by decide)).symm
    have hcs1Act : bit w csctrlCs1Act = bit v csctrlCs1Act := (hvw 5 (by decide)).symm
    obtain rfl := done_eq_next.1 h
    exact ⟨by rw [exec, execWrCsctrl, hcs0En, hcs1En, hcs0Act, hcs1Act]; rfl, rfl⟩
  · intro i s t a b c hb h1 h2 h3 h
    exact exec_withRaw hb h1 h2 h3 h

end Sys2Proof.Proofs
end

section
/-! PROOF. Restoring a snapshot (spec R40; D24, log 20). -/

namespace Sys2Proof.Machine

/-- The chip-select outputs of a consistent controller, from the raw register (spec R30, R33). -/
theorem Controller.Consistent.levels_eq {c : Controller} (h : c.Consistent) :
    c.cs0Level = !(bit c.csctrl 0 && bit c.csctrl 4) ∧ c.cs1Level = !(bit c.csctrl 1 && bit c.csctrl 5) := by
  rw [h.cs0Level_eq, h.cs1Level_eq, effCs0, effCs1, h.cs0En_eq, h.cs0Act_eq, h.cs1En_eq, h.cs1Act_eq]
  exact ⟨rfl, rfl⟩

/-- A restore derives the booleans and recomputes the outputs, whatever it is given (spec D24). -/
theorem restoreSnapshot_consistent (x : Snapshot) (d : Controller) : (restoreSnapshot x d).Consistent :=
  ⟨rfl, rfl, rfl, rfl, rfl, rfl, rfl, rfl, rfl⟩

/-- What a restore derives and recomputes is what a consistent controller holds already. -/
theorem restoreSnapshot_takeSnapshot {c : Controller} (h : c.Consistent) (d : Controller) :
    restoreSnapshot (takeSnapshot c) d = c := by
  obtain ⟨hl0, hl1⟩ := h.levels_eq
  calc restoreSnapshot (takeSnapshot c) d
      = { c with
          spe := bit c.cr1 6, mstr := bit c.cr1 2
          cs0En := bit c.csctrl 0, cs1En := bit c.csctrl 1, cs0Act := bit c.csctrl 4, cs1Act := bit c.csctrl 5
          cs0Level := !(bit c.csctrl 0 && bit c.csctrl 4), cs1Level := !(bit c.csctrl 1 && bit c.csctrl 5)
          irqLevel := irqFn c.cr2 c.sr } := rfl
    _ = c := by
      rw [← hl0, ← hl1, ← h.spe_eq, ← h.mstr_eq, ← h.cs0En_eq, ← h.cs1En_eq, ← h.cs0Act_eq, ← h.cs1Act_eq,
        ← h.irqLevel_eq]

end Sys2Proof.Machine

namespace Sys2Proof.Proofs

open Sys2Proof.Machine

/-- Settles O43: what a restore derives is what the saved controller held, and it derives from anything. -/
theorem restoreGivesBackTheController : Obligations.RestoreGivesBackTheController :=
  ⟨fun _ d hc => restoreSnapshot_takeSnapshot hc d, restoreSnapshot_consistent⟩

end Sys2Proof.Proofs
end

section
/-! PROOF. The step as a whole (spec R5, R56, R60): one request is performed, and the queue behind it stays. -/

namespace Sys2Proof.Machine

/-- No operation touches the queue or the platform (spec R5, R60). -/
theorem exec_keeps_queue_platform {i : Instr} {s t : State} (h : exec i s = .next t) :
    t.pending = s.pending ∧ t.platform = s.platform := by
  obtain ⟨-, rfl⟩ | ⟨v, b, -, -, -, rfl⟩ := exec_next h
  · exact ⟨rfl, rfl⟩
  · exact ⟨rfl, rfl⟩

end Sys2Proof.Machine

namespace Sys2Proof.Proofs

open Sys2Proof.Machine

/-- Settles O6: it is what a step does with a request that decodes. -/
theorem stepPerformsTheDecodedOperation : Obligations.StepPerformsTheDecodedOperation :=
  fun _ _ _ _ hp hd => step_of_decode_ok hp hd

/-- Settles O8: a step idles or performs the oldest request, and the operation leaves the rest of the queue as it is. -/
theorem stepPerformsExactlyTheOldestRequest : Obligations.StepPerformsExactlyTheOldestRequest := by
  intro s t h
  obtain ⟨hp, rfl⟩ | ⟨r, rest, i, hp, hd, he⟩ := step_next h
  · exact ⟨rfl, .inl ⟨hp, rfl⟩⟩
  · obtain ⟨hqueue, hplatform⟩ := exec_keeps_queue_platform he
    have hrest : t.pending = rest := hqueue
    subst hrest
    exact ⟨hplatform, .inr ⟨r, i, hp, hd, he⟩⟩

end Sys2Proof.Proofs
end

section
/-! PROOF. Operations done twice (spec R58): without an exchange and without a diagnostic every operation is idempotent. -/

namespace Sys2Proof.Machine

/-- Clearing the same flags of SR again changes nothing (spec R107). -/
theorem srAfterWrite_idem (sr v : Word) : srAfterWrite (srAfterWrite sr v) v = srAfterWrite sr v := by
  simp only [srAfterWrite, BitVec.and_assoc, BitVec.and_self]

/-- RXNE and OVR cleared again stay as they are (spec R150). -/
theorem srAfterDrRead_idem (sr : Word) : srAfterDrRead (srAfterDrRead sr) = srAfterDrRead sr := by
  apply BitVec.eq_of_getLsbD_eq
  intro k _
  simp only [getLsbD_srAfterDrRead, Bool.and_assoc, Bool.and_self]

/-- The controller's part: only the two updates of SR read what they set. -/
theorem quietCtl_idem (i : Instr) (c : Controller) : quietCtl i (quietCtl i c) = quietCtl i c := by
  cases i with
  | rdDr => simp only [quietCtl, interruptLogic, srAfterDrRead_idem]
  | wrSr v => simp only [quietCtl, interruptLogic, srAfterWrite_idem]
  | rdCr1 | rdCr2 | rdSr | rdCsctrl | rdInv off | reset => rfl
  | wrCr1 v | wrCr2 v | wrDr v | wrCsctrl v | wrInv off v => rfl

/-- A read returns the same value again: it changes no field that it returns. -/
theorem returned_quietCtl (i : Instr) (c : Controller) : returned i (quietCtl i c) = returned i c := by
  cases i <;> rfl

theorem quiet_of_ne_wrDr {i : Instr} (h : ∀ v, i ≠ .wrDr v) (s : State) : Quiet i s :=
  fun v hv => absurd hv (h v)

/-- A gated DR write stays gated: the gate does not look at `dr` (spec R141). -/
theorem Quiet.afterQuiet {i : Instr} {s : State} (h : Quiet i s) : Quiet i (afterQuiet i s) := by
  rintro v rfl
  exact h v rfl

/-- An operation without a diagnostic leaves its own next state as it is. -/
theorem afterQuiet_idem {i : Instr} (hr : raised i = []) (s : State) : afterQuiet i (afterQuiet i s) = afterQuiet i s := by
  have hctl := quietCtl_idem i s.ctl
  have hret := returned_quietCtl i s.ctl
  simp only [afterQuiet, hctl, hret, hr, List.append_nil]

/-- An operation without an exchange and without a diagnostic completes, and again in the same state (spec R58). -/
theorem exec_idem_of_quiet {i : Instr} {s : State} (h : Quiet i s) (hr : raised i = []) :
    ∃ t, exec i s = .next t ∧ exec i t = .next t := by
  refine ⟨afterQuiet i s, exec_of_quiet h, ?_⟩
  rw [exec_of_quiet h.afterQuiet, afterQuiet_idem hr]

end Sys2Proof.Machine

namespace Sys2Proof.Proofs

open Sys2Proof.Machine

/-- Settles O16: none of the eight operations is a DR write, and none raises a diagnostic. -/
theorem registerOperationsAreIdempotent : Obligations.RegisterOperationsAreIdempotent := by
  intro v s i hi
  have hquiet : (∀ w, i ≠ .wrDr w) ∧ raised i = [] := by
    simp only [List.mem_cons, List.not_mem_nil, or_false] at hi
    rcases hi with rfl | rfl | rfl | rfl | rfl | rfl | rfl | rfl <;> exact ⟨nofun, rfl⟩
  exact exec_idem_of_quiet (quiet_of_ne_wrDr hquiet.1 s) hquiet.2

end Sys2Proof.Proofs
end

section
/-! PROOF. The host bus (spec R52, R53, R54, R55): where a host address reaches the block, and which accesses are refused. -/

namespace Sys2Proof

/-- Every admissible region has a platform (spec R53, D9; log 7). -/
theorem Platform.exists_regionSize_eq {n : Nat} (hmin : 0x14 ≤ n) (hword : n % 4 = 0) (hmax : n ≤ 2 ^ 30) :
    ∃ p : Platform, p.regionSize = n := by
  refine ⟨{ (default : Platform) with spareWords := ⟨(n - 0x14) / 4, by omega⟩ }, ?_⟩
  show (n - 0x14) / 4 * 4 + 0x14 = n
  omega

/-- A read or a write that fails a check is refused for it (spec R75). -/
theorem decode_of_admission_eq_some {region : Nat} {r : Request} {why : Reject}
    (hk : keyKind r.key = .read ∨ keyKind r.key = .write)
    (ha : admission region r.size (keyOffset r.key) = some why) : decode region r = .error why := by
  obtain hk | hk := hk <;> simp only [decode, hk, ha]

end Sys2Proof

namespace Sys2Proof.Machine

/-- The bus routes an address exactly inside the region, at its distance from the base (spec R52). That distance fits an
offset, since a region has at most 2^30 bytes (spec R53, R70). -/
theorem route_eq_some_iff {p : Platform} {a : Nat} {off : Offset} :
    route p a = some off ↔ p.baseAddr ≤ a ∧ a < p.baseAddr + p.regionSize ∧ off.toNat = a - p.baseAddr := by
  obtain ⟨-, -, hmax⟩ := p.regionSize_bounds
  unfold route
  split_ifs with hin
  · have hfits : (a - p.baseAddr) % 2 ^ 30 = a - p.baseAddr := Nat.mod_eq_of_lt (by omega)
    rw [Option.some_inj, ← BitVec.toNat_inj, BitVec.toNat_ofNat, hfits]
    exact ⟨fun h => ⟨hin.1, hin.2, h.symm⟩, fun h => h.2.2.symm⟩
  · exact ⟨nofun, fun h => absurd ⟨h.1, h.2.1⟩ hin⟩

/-- The request of a host read: a READ of its width, at the routed offset. -/
theorem hostRead_eq_some {p : Platform} {a size : Nat} {r : Request} (h : hostRead p a size = some r) :
    keyKind r.key = .read ∧ r.size = size ∧ route p a = some (keyOffset r.key) := by
  obtain ⟨off, hoff, rfl⟩ := Option.map_eq_some_iff.1 h
  exact ⟨keyKind_makeKey_read off, rfl, by rw [hoff, keyOffset_makeKey_read]⟩

/-- The request of a host write: a WRITE as wide as its bytes, at the routed offset. -/
theorem hostWrite_eq_some {p : Platform} {a : Nat} {bytes : List Byte} {r : Request}
    (h : hostWrite p a bytes = some r) :
    keyKind r.key = .write ∧ r.size = bytes.length ∧ route p a = some (keyOffset r.key) := by
  obtain ⟨off, hoff, rfl⟩ := Option.map_eq_some_iff.1 h
  exact ⟨keyKind_makeKey_write off, rfl, by rw [hoff, keyOffset_makeKey_write]⟩

/-- An access of a width other than 4 has no step (spec R54; D7, log 19). -/
theorem step_refuses_width {s : State} {r : Request} {rest : List Request} (hp : s.pending = r :: rest)
    (hk : keyKind r.key = .read ∨ keyKind r.key = .write) (hsize : r.size ≠ 4) :
    step s = .refused (.notAdmitted .width) :=
  step_of_decode_error hp (decode_of_admission_eq_some hk (by rw [admission_eq, if_pos hsize]))

/-- A 4-byte access whose host address is misaligned in the region has no step (spec R55; D8, log 19). -/
theorem step_refuses_misaligned {s : State} {r : Request} {rest : List Request} {a : Nat} (hp : s.pending = r :: rest)
    (hk : keyKind r.key = .read ∨ keyKind r.key = .write) (hsize : r.size = 4)
    (hroute : route s.platform a = some (keyOffset r.key)) (ha : (a - s.platform.baseAddr) % 4 ≠ 0) :
    step s = .refused (.notAdmitted .misaligned) := by
  obtain ⟨-, -, hoff⟩ := route_eq_some_iff.1 hroute
  refine step_of_decode_error hp (decode_of_admission_eq_some hk ?_)
  rw [admission_eq, if_neg (not_not.2 hsize), hoff, if_pos ha]

end Sys2Proof.Machine

namespace Sys2Proof.Proofs

open Sys2Proof.Machine

/-- Settles O41: the first clause is `route_eq_some_iff`; a region has an admissible size by its type, and every such size
has its platform. -/
theorem hostAddressReachesItsOffset : Obligations.HostAddressReachesItsOffset := by
  refine ⟨fun p a off => route_eq_some_iff, fun n => ⟨?_, ?_⟩⟩
  · rintro ⟨p, rfl⟩
    exact p.regionSize_bounds
  · rintro ⟨hmin, hword, hmax⟩
    exact Platform.exists_regionSize_eq hmin hword hmax

/-- Settles O42: a host read and a host write become a READ and a WRITE of their width at their offset, and the two checks
of R75 refuse either kind. -/
theorem narrowAndMisalignedAccessesHaveNoStep : Obligations.NarrowAndMisalignedAccessesHaveNoStep := by
  intro s rest r a hp
  refine ⟨?_, ?_, ?_, ?_⟩
  · intro size h hne
    obtain ⟨hk, hsize, -⟩ := hostRead_eq_some h
    exact step_refuses_width hp (.inl hk) (hsize ▸ hne)
  · intro bytes h hne
    obtain ⟨hk, hsize, -⟩ := hostWrite_eq_some h
    exact step_refuses_width hp (.inr hk) (hsize ▸ hne)
  · intro h ha
    obtain ⟨hk, hsize, hroute⟩ := hostRead_eq_some h
    exact step_refuses_misaligned hp (.inl hk) hsize hroute ha
  · intro bytes h hlen ha
    obtain ⟨hk, hsize, hroute⟩ := hostWrite_eq_some h
    exact step_refuses_misaligned hp (.inr hk) (hsize.trans hlen) hroute ha

end Sys2Proof.Proofs
end

section
/-! PROOF. The decoder, said once (spec R70, R75, R76): the keys as numbers, what each of them decodes to, and the converse
`decode_eq_ok`, all that a request can decode to. -/

namespace Sys2Proof

/-! ### The kinds of keys as ranges of numbers, and the keys of each kind -/

theorem keyKind_eq_read_iff (k : Word) : keyKind k = .read ↔ k.toNat < 2 ^ 30 := by
  rw [keyKind_eq]
  split_ifs <;> simp <;> omega

theorem keyKind_eq_write_iff (k : Word) : keyKind k = .write ↔ 2 ^ 30 ≤ k.toNat ∧ k.toNat < 2 ^ 31 := by
  rw [keyKind_eq]
  split_ifs <;> simp <;> omega

theorem keyKind_eq_reset_iff (k : Word) : keyKind k = .reset ↔ 2 ^ 31 ≤ k.toNat ∧ k.toNat < 3 * 2 ^ 30 := by
  rw [keyKind_eq]
  split_ifs <;> simp <;> omega

theorem keyKind_eq_reserved_iff (k : Word) : keyKind k = .reserved ↔ 3 * 2 ^ 30 ≤ k.toNat := by
  rw [keyKind_eq]
  split_ifs <;> simp <;> omega

theorem keyOffset_eq_zero_iff (k : Word) : keyOffset k = 0 ↔ k.toNat % 2 ^ 30 = 0 :=
  keyOffset_eq_iff k 0 (by decide)

theorem eq_makeKey_read_iff (k : Word) (off : Offset) : k = makeKey .read off ↔ k.toNat = off.toNat := by
  rw [← BitVec.toNat_inj, toNat_makeKey_read]

theorem eq_makeKey_write_iff (k : Word) (off : Offset) : k = makeKey .write off ↔ k.toNat = 2 ^ 30 + off.toNat := by
  rw [← BitVec.toNat_inj, toNat_makeKey_write]

/-- A READ key is made of its own offset (spec R70). -/
theorem eq_makeKey_of_read {k : Word} (h : keyKind k = .read) : k = makeKey .read (keyOffset k) := by
  rw [keyKind_eq_read_iff] at h
  rw [eq_makeKey_read_iff, toNat_keyOffset, Nat.mod_eq_of_lt h]

/-- A WRITE key is made of its own offset (spec R70). -/
theorem eq_makeKey_of_write {k : Word} (h : keyKind k = .write) : k = makeKey .write (keyOffset k) := by
  rw [keyKind_eq_write_iff] at h
  rw [eq_makeKey_write_iff, toNat_keyOffset]
  omega

/-- RESET has one key, at offset 0 (spec R76). -/
theorem eq_resetKey_iff (k : Word) : k = Instr.key .reset ↔ keyKind k = .reset ∧ keyOffset k = 0 := by
  rw [← BitVec.toNat_inj, show (Instr.key .reset).toNat = 2 ^ 31 from rfl, keyKind_eq_reset_iff, keyOffset_eq_zero_iff]
  omega

/-! ### The operation at an offset -/

/-- The request of the READ at an offset, register or not (spec R70, R76). -/
theorem encode_readAt (off : Offset) : encode (readAt off) = ⟨makeKey .read off, 4, 0⟩ := by
  unfold readAt
  split_ifs
  case neg => rfl
  all_goals subst off; rfl

/-- The request of the WRITE at an offset, register or not (spec R70, R76). -/
theorem encode_writeAt (off : Offset) (v : Word) : encode (writeAt off v) = ⟨makeKey .write off, 4, v⟩ := by
  unfold writeAt
  split_ifs
  case neg => rfl
  all_goals subst off; rfl

@[simp] theorem key_readAt (off : Offset) : (readAt off).key = makeKey .read off :=
  congrArg Request.key (encode_readAt off)

@[simp] theorem key_writeAt (off : Offset) (v : Word) : (writeAt off v).key = makeKey .write off :=
  congrArg Request.key (encode_writeAt off v)

@[simp] theorem data?_readAt (off : Offset) : (readAt off).data? = none := by
  unfold readAt
  split_ifs <;> rfl

@[simp] theorem data?_writeAt (off : Offset) (v : Word) : (writeAt off v).data? = some v := by
  unfold writeAt
  split_ifs <;> rfl

theorem readAt_of_invalidOffset {off : Offset} (h : invalidOffset off = true) : readAt off = .rdInv off := by
  obtain ⟨-, h0, h4, h8, hC, h10⟩ := (invalidOffset_iff off).1 h
  simp only [readAt, if_neg h0, if_neg h4, if_neg h8, if_neg hC, if_neg h10]

theorem writeAt_of_invalidOffset {off : Offset} (v : Word) (h : invalidOffset off = true) :
    writeAt off v = .wrInv off v := by
  obtain ⟨-, h0, h4, h8, hC, h10⟩ := (invalidOffset_iff off).1 h
  simp only [writeAt, if_neg h0, if_neg h4, if_neg h8, if_neg hC, if_neg h10]

/-- The well-formed operations are the READs and the WRITEs at the aligned offsets, and RESET (spec R75, R76). -/
theorem Instr.access_or_reset {i : Instr} (h : i.wellFormed = true) :
    (∃ off, alignedOffset off = true ∧ i = readAt off) ∨
    (∃ off v, alignedOffset off = true ∧ i = writeAt off v) ∨ i = .reset := by
  cases i with
  | rdCr1 => exact .inl ⟨0x00, rfl, rfl⟩
  | rdCr2 => exact .inl ⟨0x04, rfl, rfl⟩
  | rdSr => exact .inl ⟨0x08, rfl, rfl⟩
  | rdDr => exact .inl ⟨0x0C, rfl, rfl⟩
  | rdCsctrl => exact .inl ⟨0x10, rfl, rfl⟩
  | rdInv off => exact .inl ⟨off, ((invalidOffset_iff off).1 h).1, (readAt_of_invalidOffset h).symm⟩
  | wrCr1 v => exact .inr (.inl ⟨0x00, v, rfl, rfl⟩)
  | wrCr2 v => exact .inr (.inl ⟨0x04, v, rfl, rfl⟩)
  | wrSr v => exact .inr (.inl ⟨0x08, v, rfl, rfl⟩)
  | wrDr v => exact .inr (.inl ⟨0x0C, v, rfl, rfl⟩)
  | wrCsctrl v => exact .inr (.inl ⟨0x10, v, rfl, rfl⟩)
  | wrInv off v => exact .inr (.inl ⟨off, v, ((invalidOffset_iff off).1 h).1, (writeAt_of_invalidOffset v h).symm⟩)
  | reset => exact .inr (.inr rfl)

/-- A routed operation's offset lies in the region (spec R53); the converse is `routed_of_offset`. -/
theorem lt_region_of_routed {region : Nat} {i : Instr} {off : Offset} (hi : i.offset? = some off)
    (h : i.routed region = true) : off.toNat < region := by
  simpa only [Instr.routed, hi, decide_eq_true_eq] using h

/-! ### What a request decodes to -/

/-- The three checks met, an access is admitted (spec R53, R54, R55); the converse is `admission_eq_none`. -/
theorem admission_of_met {region size : Nat} {off : Offset} (hsize : size = 4) (haligned : alignedOffset off = true)
    (hregion : off.toNat < region) : admission region size off = none := by
  rw [admission_eq, if_neg (not_not.2 hsize), if_neg (not_not.2 ((alignedOffset_iff off).1 haligned)),
    if_neg (Nat.not_le.2 hregion)]

theorem decode_read {region : Nat} {r : Request} {off : Offset} (hk : r.key = makeKey .read off)
    (ha : admission region r.size off = none) : decode region r = .ok (readAt off) := by
  simp only [decode, hk, keyKind_makeKey_read, keyOffset_makeKey_read, ha]

theorem decode_write {region : Nat} {r : Request} {off : Offset} (hk : r.key = makeKey .write off)
    (ha : admission region r.size off = none) : decode region r = .ok (writeAt off r.data) := by
  simp only [decode, hk, keyKind_makeKey_write, keyOffset_makeKey_write, ha]

theorem decode_reset {region : Nat} {r : Request} (hk : r.key = Instr.key .reset) : decode region r = .ok .reset := by
  obtain ⟨hkind, hoff⟩ := (eq_resetKey_iff r.key).1 hk
  simp only [decode, hkind, hoff, if_true]

theorem decode_reset_of_offset_ne {region : Nat} {r : Request} (hk : keyKind r.key = .reset)
    (hoff : keyOffset r.key ≠ 0) : decode region r = .error .reservedKind := by
  simp only [decode, hk, if_neg hoff]

theorem decode_reserved {region : Nat} {r : Request} (hk : keyKind r.key = .reserved) :
    decode region r = .error .reservedKind := by
  simp only [decode, hk]

/-- All that a request can decode to: an admitted READ or WRITE at its offset, or RESET (spec R75). -/
theorem decode_eq_ok {region : Nat} {r : Request} {i : Instr} (h : decode region r = .ok i) :
    (∃ off, r.key = makeKey .read off ∧ admission region r.size off = none ∧ i = readAt off) ∨
    (∃ off, r.key = makeKey .write off ∧ admission region r.size off = none ∧ i = writeAt off r.data) ∨
    (r.key = Instr.key .reset ∧ i = .reset) := by
  cases hk : keyKind r.key with
  | reserved => cases (decode_reserved hk).symm.trans h
  | reset =>
    by_cases hoff : keyOffset r.key = 0
    · have hkey := (eq_resetKey_iff r.key).2 ⟨hk, hoff⟩
      exact .inr (.inr ⟨hkey, (Except.ok.inj ((decode_reset hkey).symm.trans h)).symm⟩)
    · cases (decode_reset_of_offset_ne hk hoff).symm.trans h
  | read =>
    cases ha : admission region r.size (keyOffset r.key) with
    | some why => cases (decode_of_admission_eq_some (.inl hk) ha).symm.trans h
    | none =>
      have hkey := eq_makeKey_of_read hk
      exact .inl ⟨_, hkey, ha, (Except.ok.inj ((decode_read hkey ha).symm.trans h)).symm⟩
  | write =>
    cases ha : admission region r.size (keyOffset r.key) with
    | some why => cases (decode_of_admission_eq_some (.inr hk) ha).symm.trans h
    | none =>
      have hkey := eq_makeKey_of_write hk
      exact .inr (.inl ⟨_, hkey, ha, (Except.ok.inj ((decode_write hkey ha).symm.trans h)).symm⟩)

end Sys2Proof

namespace Sys2Proof.Proofs

/-- Settles O2: a well-formed operation is the READ or the WRITE at an aligned offset, or RESET; its request has that
offset's key, and the region routes it, so that no check refuses it. -/
theorem decodeInvertsEncode : Obligations.DecodeInvertsEncode := by
  intro region i hwf hrouted
  obtain ⟨off, haligned, rfl⟩ | ⟨off, v, haligned, rfl⟩ | rfl := Instr.access_or_reset hwf
  · have hregion := lt_region_of_routed (readAt_wellFormed haligned).2 hrouted
    rw [encode_readAt]
    exact decode_read rfl (admission_of_met rfl haligned hregion)
  · have hregion := lt_region_of_routed (writeAt_wellFormed v haligned).2 hrouted
    rw [encode_writeAt]
    exact decode_write rfl (admission_of_met rfl haligned hregion)
  · exact decode_reset rfl

/-- Settles O3: what decodes is admitted, and each of the three forms it can have (`decode_eq_ok`) has the request's key,
the width 4 unless it is RESET, and the request's data if it is a WRITE. -/
theorem decodedRequestCarriesItsOperation : Obligations.DecodedRequestCarriesItsOperation := by
  intro region r i h
  obtain ⟨hwf, hrouted⟩ := wellFormed_routed_of_decode h
  refine ⟨hwf, hrouted, ?_⟩
  obtain ⟨off, hkey, ha, rfl⟩ | ⟨off, hkey, ha, rfl⟩ | ⟨hkey, rfl⟩ := decode_eq_ok h
  · obtain ⟨hsize, -, -⟩ := admission_eq_none ha
    exact ⟨hkey.trans (key_readAt off).symm, fun _ => hsize, by simp⟩
  · obtain ⟨hsize, -, -⟩ := admission_eq_none ha
    exact ⟨hkey.trans (key_writeAt off r.data).symm, fun _ => hsize, by simp⟩
  · exact ⟨hkey, nofun, nofun⟩

end Sys2Proof.Proofs
end

section
/-! PROOF. The rule of decoding (spec R75), with keys and offsets as numbers. -/

namespace Sys2Proof

/-- The READ rows of R75, with the offset as a number. -/
theorem readAt_ofNat {n : Nat} (hn : n < 2 ^ 30) : readAt (BitVec.ofNat 30 n) =
    if n = 0x00 then .rdCr1 else if n = 0x04 then .rdCr2 else if n = 0x08 then .rdSr else if n = 0x0C then .rdDr
      else if n = 0x10 then .rdCsctrl else .rdInv (BitVec.ofNat 30 n) := by
  simp only [readAt, ← BitVec.toNat_inj, BitVec.toNat_ofNat, Nat.mod_eq_of_lt hn, BitVec.reduceToNat]

/-- The WRITE rows of R75, with the offset as a number. -/
theorem writeAt_ofNat {n : Nat} (v : Word) (hn : n < 2 ^ 30) : writeAt (BitVec.ofNat 30 n) v =
    if n = 0x00 then .wrCr1 v else if n = 0x04 then .wrCr2 v else if n = 0x08 then .wrSr v else if n = 0x0C then .wrDr v
      else if n = 0x10 then .wrCsctrl v else .wrInv (BitVec.ofNat 30 n) v := by
  simp only [writeAt, ← BitVec.toNat_inj, BitVec.toNat_ofNat, Nat.mod_eq_of_lt hn, BitVec.reduceToNat]

/-- The keys below `2 ^ 31` are those of the accesses (spec R70). -/
theorem keyKind_access {k : Word} (h : k.toNat < 2 ^ 31) : keyKind k = .read ∨ keyKind k = .write := by
  rw [keyKind_eq_read_iff, keyKind_eq_write_iff]
  omega

/-- The checks on the offset of a key, with the key as a number (spec R75). -/
theorem admission_keyOffset (region size : Nat) (k : Word) : admission region size (keyOffset k) =
    if size ≠ 4 then some .width else if k.toNat % 4 ≠ 0 then some .misaligned
      else if region ≤ k.toNat % 2 ^ 30 then some .notRouted else none := by
  have hlow : k.toNat % 2 ^ 30 % 4 = k.toNat % 4 := Nat.mod_mod_of_dvd _ (by decide)
  rw [admission_eq, toNat_keyOffset, hlow]

theorem toNat_ofNat_offset {n : Nat} (hn : n < 2 ^ 30) : (BitVec.ofNat 30 n).toNat = n := by
  rw [BitVec.toNat_ofNat, Nat.mod_eq_of_lt hn]

/-- The checks on an offset given as a number, all met (spec R75). -/
theorem admission_ofNat {region size n : Nat} (hn : n < 2 ^ 30) (hsize : size = 4) (haligned : n % 4 = 0)
    (hregion : n < region) : admission region size (BitVec.ofNat 30 n) = none := by
  have hto : (BitVec.ofNat 30 n).toNat = n := toNat_ofNat_offset hn
  exact admission_of_met hsize ((alignedOffset_iff _).2 (hto.symm ▸ haligned)) (hto.symm ▸ hregion)

end Sys2Proof

namespace Sys2Proof.Proofs

open Sys2Proof.Machine

/-- Settles O1: the ranges of the key are its kinds, an access that fails a check is refused for the first one it fails, and
an admitted one is the row at its offset. -/
theorem decodeFollowsTheRuleOfDecoding : Obligations.DecodeFollowsTheRuleOfDecoding := by
  intro region r
  refine ⟨?reserved, ?resetOffset, ?reset, ?width, ?misaligned, ?notRouted, ?read, ?write, ?noStep⟩
  case reserved =>
    intro h
    exact decode_reserved ((keyKind_eq_reserved_iff _).2 h)
  case resetOffset =>
    intro hlo hhi
    refine decode_reset_of_offset_ne ((keyKind_eq_reset_iff _).2 ⟨hlo.le, hhi⟩) ?_
    rw [Ne, keyOffset_eq_zero_iff]
    omega
  case reset =>
    intro h
    exact decode_reset (BitVec.toNat_inj.1 h)
  case width =>
    intro hk hsize
    refine decode_of_admission_eq_some (keyKind_access hk) ?_
    rw [admission_keyOffset, if_pos hsize]
  case misaligned =>
    intro hk hsize ha
    refine decode_of_admission_eq_some (keyKind_access hk) ?_
    rw [admission_keyOffset, if_neg (not_not.2 hsize), if_pos ha]
  case notRouted =>
    intro hk hsize ha hregion
    refine decode_of_admission_eq_some (keyKind_access hk) ?_
    rw [admission_keyOffset, if_neg (not_not.2 hsize), if_neg (not_not.2 ha), if_pos hregion]
  case read =>
    intro hn hsize ha hregion
    have hkey : r.key = makeKey .read (BitVec.ofNat 30 r.key.toNat) := by
      rw [eq_makeKey_read_iff, toNat_ofNat_offset hn]
    rw [decode_read hkey (admission_ofNat hn hsize ha hregion), readAt_ofNat hn]
  case write =>
    intro off hk hn hsize ha hregion
    have hkey : r.key = makeKey .write (BitVec.ofNat 30 off) := by
      rw [eq_makeKey_write_iff, toNat_ofNat_offset hn, hk]
    rw [decode_write hkey (admission_ofNat hn hsize ha hregion), writeAt_ofNat _ hn]
  case noStep =>
    rintro why s rest hd hp rfl
    exact step_of_decode_error hp hd

/-- Settles O5: the ten printed keys, each computed. -/
theorem printedKeysDecodeAsPrinted : Obligations.PrintedKeysDecodeAsPrinted :=
  ⟨rfl, rfl, rfl, rfl, rfl, rfl, rfl, rfl, rfl, rfl⟩

end Sys2Proof.Proofs
end

section
/-! PROOF. The rows of the opcode table (spec R76): the key of a well-formed operation lies in its own row, the exact rows
hold one key each, and none of these has the offset of a default row's operation. -/

namespace Sys2Proof

/-- The family `KeyShape`, put together: the key of a well-formed operation lies in its row (spec R76). -/
theorem row_covers_key {i : Instr} (h : i.wellFormed = true) : i.row.covers i.key = true := by
  cases i with
  | rdCr1 => exact Laws.KeyShape.rdCr1 h
  | rdCr2 => exact Laws.KeyShape.rdCr2 h
  | rdSr => exact Laws.KeyShape.rdSr h
  | rdDr => exact Laws.KeyShape.rdDr h
  | rdCsctrl => exact Laws.KeyShape.rdCsctrl h
  | rdInv off => exact Laws.KeyShape.rdInv off h
  | wrCr1 v => exact Laws.KeyShape.wrCr1 v h
  | wrCr2 v => exact Laws.KeyShape.wrCr2 v h
  | wrSr v => exact Laws.KeyShape.wrSr v h
  | wrDr v => exact Laws.KeyShape.wrDr v h
  | wrCsctrl v => exact Laws.KeyShape.wrCsctrl v h
  | wrInv off v => exact Laws.KeyShape.wrInv off v h
  | reset => exact Laws.KeyShape.reset h

/-- An exact row holds its pattern and no other key. -/
theorem eq_pattern_of_exact {row : TableRow} {k : Word} (hrow : row ∈ exactRows) (h : row.covers k = true) :
    k = row.pattern := by
  have hmask : ∀ row ∈ exactRows, row.mask = BitVec.allOnes 32 := by decide
  simpa only [TableRow.covers, hmask row hrow, BitVec.and_allOnes, beq_iff_eq] using h

/-- No two exact rows have the same pattern. -/
theorem exactRows_pattern_injective : ∀ a ∈ exactRows, ∀ b ∈ exactRows, a.pattern = b.pattern → a = b := by
  decide

/-- The keys of the exact rows have the five register offsets (RESET's offset is 0, as CR1's). -/
theorem keyOffset_of_exact {row : TableRow} {k : Word} (hrow : row ∈ exactRows) (h : row.covers k = true) :
    keyOffset k ∈ registerOffsets := by
  have hoff : ∀ row ∈ exactRows, keyOffset row.pattern ∈ registerOffsets := by decide
  exact eq_pattern_of_exact hrow h ▸ hoff row hrow

/-- The operations of the default rows have no register's offset (spec R109, R110). -/
theorem keyOffset_of_default {i : Instr} (hwf : i.wellFormed = true) (hi : i.row.priority = 0) :
    keyOffset i.key ∉ registerOffsets := by
  have hno {off : Offset} (h : invalidOffset off = true) : off ∉ registerOffsets := by
    simpa [invalidOffset] using (Bool.and_eq_true_iff.1 h).2
  cases i with
  | rdInv off => exact (keyOffset_makeKey_read off).symm ▸ hno hwf
  | wrInv off v => exact (keyOffset_makeKey_write off).symm ▸ hno hwf
  | rdCr1 | rdCr2 | rdSr | rdDr | rdCsctrl | reset => cases hi
  | wrCr1 v | wrCr2 v | wrSr v | wrDr v | wrCsctrl v => cases hi

end Sys2Proof

namespace Sys2Proof.Proofs

/-- Settles O4: a decoded key is its operation's own, which lies in the operation's row; a default row's key has no
register's offset, and every key of an exact row has one; and an exact row is known by its one key. -/
theorem decodedKeyBelongsToItsTableRow : Obligations.DecodedKeyBelongsToItsTableRow := by
  refine ⟨?_, ?_⟩
  · intro region r i h
    obtain ⟨hwf, -, hkey, -, -⟩ := decodedRequestCarriesItsOperation region r i h
    rw [hkey]
    refine ⟨row_covers_key hwf, fun hdefault row hrow => ?_⟩
    exact Bool.eq_false_iff.2 fun hc => keyOffset_of_default hwf hdefault (keyOffset_of_exact hrow hc)
  · intro k a ha b hb hak hbk
    have hpattern : a.pattern = b.pattern := (eq_pattern_of_exact ha hak).symm.trans (eq_pattern_of_exact hb hbk)
    exact exactRows_pattern_injective a ha b hb hpattern

end Sys2Proof.Proofs
end

section
/-! PROOF. The pseudo-operations of one operation (spec R80; D3, log 26). -/

namespace Sys2Proof.Machine

/-- The three register writes of these expansions complete from every state. -/
theorem exec_wrCr1 (v : Word) (s : State) : exec (.wrCr1 v) s = .next (afterQuiet (.wrCr1 v) s) :=
  exec_of_quiet fun _ h => nomatch h

theorem exec_wrCsctrl (v : Word) (s : State) : exec (.wrCsctrl v) s = .next (afterQuiet (.wrCsctrl v) s) :=
  exec_of_quiet fun _ h => nomatch h

theorem exec_wrSr (v : Word) (s : State) : exec (.wrSr v) s = .next (afterQuiet (.wrSr v) s) :=
  exec_of_quiet fun _ h => nomatch h

end Sys2Proof.Machine

namespace Sys2Proof.Proofs

open Sys2Proof.Machine

/-- Settles O44: each expansion is one register write, which completes; what CR1 and CSCTRL derive is computed from the
written value, and the SR write clears OVR and UDR whatever they were. -/
theorem pseudoOperationsHaveTheirEffect : Obligations.PseudoOperationsHaveTheirEffect := by
  intro s
  refine ⟨?enableMaster, ?disable, ?select0, ?select1, ?deselect, ?clrErr⟩
  case enableMaster => exact ⟨_, _, rfl, exec_wrCr1 0x00000044 s, rfl, rfl⟩
  case disable => exact ⟨_, _, rfl, exec_wrCr1 0x00000000 s, rfl, rfl⟩
  case select0 => exact ⟨_, _, rfl, exec_wrCsctrl 0x00000011 s, rfl, rfl⟩
  case select1 => exact ⟨_, _, rfl, exec_wrCsctrl 0x00000022 s, rfl, rfl⟩
  case deselect => exact ⟨_, _, rfl, exec_wrCsctrl 0x00000000 s, rfl, rfl⟩
  case clrErr =>
    refine ⟨_, _, rfl, exec_wrSr 0x0000000C s, ?_, ?_⟩
    · exact (getLsbD_srAfterWrite s.ctl.sr _ 3).trans (Bool.and_false _)
    · exact (getLsbD_srAfterWrite s.ctl.sr _ 2).trans (Bool.and_false _)

end Sys2Proof.Proofs
end

section
/-! PROOF. What an operation leaves unchanged (spec R101): each group of fields that are assigned together is framed once, over
the two forms that `exec_next` gives a completed operation, or over the quiet one where a DR write is excluded. -/

namespace Sys2Proof.Machine

variable {i : Instr} {s t : State}

/-- An operation that is no DR write made no exchange. -/
theorem eq_afterQuiet_of_ne_wrDr (h : exec i s = .next t) (hwr : ∀ v, i ≠ .wrDr v) : t = afterQuiet i s :=
  (Host.Outcome.next.inj ((exec_of_quiet (quiet_of_ne_wrDr hwr s)).symm.trans h)).symm

/-- CR1 and what it derives are assigned by WR_CR1 and RESET only (spec R101, R103). -/
theorem exec_keeps_cr1 (h : exec i s = .next t) (hwr : ∀ v, i ≠ .wrCr1 v) (hreset : i ≠ .reset) :
    t.ctl.cr1 = s.ctl.cr1 ∧ t.ctl.spe = s.ctl.spe ∧ t.ctl.mstr = s.ctl.mstr := by
  obtain ⟨-, rfl⟩ | ⟨v, b, rfl, -, -, rfl⟩ := exec_next h
  · cases i with
    | wrCr1 v => exact absurd rfl (hwr v)
    | reset => exact absurd rfl hreset
    | rdCr1 | rdCr2 | rdSr | rdDr | rdCsctrl | rdInv off => exact ⟨rfl, rfl, rfl⟩
    | wrCr2 v | wrSr v | wrDr v | wrCsctrl v | wrInv off v => exact ⟨rfl, rfl, rfl⟩
  · exact ⟨rfl, rfl, rfl⟩

/-- CR2 is assigned by WR_CR2 and RESET only (spec R101, R105). -/
theorem exec_keeps_cr2 (h : exec i s = .next t) (hwr : ∀ v, i ≠ .wrCr2 v) (hreset : i ≠ .reset) :
    t.ctl.cr2 = s.ctl.cr2 := by
  obtain ⟨-, rfl⟩ | ⟨v, b, rfl, -, -, rfl⟩ := exec_next h
  · cases i with
    | wrCr2 v => exact absurd rfl (hwr v)
    | reset => exact absurd rfl hreset
    | rdCr1 | rdCr2 | rdSr | rdDr | rdCsctrl | rdInv off => rfl
    | wrCr1 v | wrSr v | wrDr v | wrCsctrl v | wrInv off v => rfl
  · rfl

/-- CSCTRL, what it derives and the chip-select outputs are assigned by WR_CSCTRL and RESET only (spec R101, R131). -/
theorem exec_keeps_csctrl (h : exec i s = .next t) (hwr : ∀ v, i ≠ .wrCsctrl v) (hreset : i ≠ .reset) :
    t.ctl.csctrl = s.ctl.csctrl ∧ t.ctl.cs0En = s.ctl.cs0En ∧ t.ctl.cs0Act = s.ctl.cs0Act ∧
      t.ctl.cs1En = s.ctl.cs1En ∧ t.ctl.cs1Act = s.ctl.cs1Act ∧ t.ctl.cs0Level = s.ctl.cs0Level ∧
      t.ctl.cs1Level = s.ctl.cs1Level := by
  obtain ⟨-, rfl⟩ | ⟨v, b, rfl, -, -, rfl⟩ := exec_next h
  · cases i with
    | wrCsctrl v => exact absurd rfl (hwr v)
    | reset => exact absurd rfl hreset
    | rdCr1 | rdCr2 | rdSr | rdDr | rdCsctrl | rdInv off => exact ⟨rfl, rfl, rfl, rfl, rfl, rfl, rfl⟩
    | wrCr1 v | wrCr2 v | wrSr v | wrDr v | wrInv off v => exact ⟨rfl, rfl, rfl, rfl, rfl, rfl, rfl⟩
  · exact ⟨rfl, rfl, rfl, rfl, rfl, rfl, rfl⟩

/-- Both sides of DR are assigned by WR_DR and RESET only (spec R101, R142, R150). -/
theorem exec_keeps_dr (h : exec i s = .next t) (hwr : ∀ v, i ≠ .wrDr v) (hreset : i ≠ .reset) :
    t.ctl.dr = s.ctl.dr ∧ t.ctl.rxData = s.ctl.rxData := by
  obtain rfl := eq_afterQuiet_of_ne_wrDr h hwr
  cases i with
  | wrDr v => exact absurd rfl (hwr v)
  | reset => exact absurd rfl hreset
  | rdCr1 | rdCr2 | rdSr | rdDr | rdCsctrl | rdInv off => exact ⟨rfl, rfl⟩
  | wrCr1 v | wrCr2 v | wrSr v | wrCsctrl v | wrInv off v => exact ⟨rfl, rfl⟩

/-- Each update of SR belongs to one of four operations (spec R25, R101). -/
theorem exec_keeps_sr (h : exec i s = .next t) (hwrSr : ∀ v, i ≠ .wrSr v) (hwrDr : ∀ v, i ≠ .wrDr v) (hrdDr : i ≠ .rdDr)
    (hreset : i ≠ .reset) : t.ctl.sr = s.ctl.sr := by
  obtain hsr | ⟨hi, -⟩ | ⟨v, hi, -⟩ | ⟨v, hi, -⟩ | ⟨hi, -⟩ := exec_sr h
  · exact hsr
  · exact absurd hi hrdDr
  · exact absurd hi (hwrSr v)
  · exact absurd hi (hwrDr v)
  · exact absurd hi hreset

/-- The interrupt output is recomputed where CR2 or SR is assigned, and nowhere else (spec R101, R175). -/
theorem exec_keeps_irqLevel (h : exec i s = .next t) (hwrCr2 : ∀ v, i ≠ .wrCr2 v) (hwrSr : ∀ v, i ≠ .wrSr v)
    (hwrDr : ∀ v, i ≠ .wrDr v) (hrdDr : i ≠ .rdDr) (hreset : i ≠ .reset) : t.ctl.irqLevel = s.ctl.irqLevel := by
  obtain rfl := eq_afterQuiet_of_ne_wrDr h hwrDr
  cases i with
  | wrCr2 v => exact absurd rfl (hwrCr2 v)
  | wrSr v => exact absurd rfl (hwrSr v)
  | rdDr => exact absurd rfl hrdDr
  | reset => exact absurd rfl hreset
  | rdCr1 | rdCr2 | rdSr | rdCsctrl | rdInv off => rfl
  | wrCr1 v | wrDr v | wrCsctrl v | wrInv off v => rfl

/-- Only an access at an offset that is no register raises a diagnostic (spec R109, R110, R170). -/
theorem raised_eq_nil (hrd : ∀ off, i ≠ .rdInv off) (hwr : ∀ off v, i ≠ .wrInv off v) : raised i = [] := by
  cases i with
  | rdInv off => exact absurd rfl (hrd off)
  | wrInv off v => exact absurd rfl (hwr off v)
  | rdCr1 | rdCr2 | rdSr | rdDr | rdCsctrl | reset => rfl
  | wrCr1 v | wrCr2 v | wrSr v | wrDr v | wrCsctrl v => rfl

/-- Without an exchange and without a diagnostic nothing is observed (spec R101). -/
theorem exec_keeps_events (h : exec i s = .next t) (hwrDr : ∀ v, i ≠ .wrDr v) (hrd : ∀ off, i ≠ .rdInv off)
    (hwr : ∀ off v, i ≠ .wrInv off v) : t.events = s.events := by
  obtain rfl := eq_afterQuiet_of_ne_wrDr h hwrDr
  rw [afterQuiet_events, raised_eq_nil hrd hwr, List.append_nil]

/-- The event of an exchange is no diagnostic, so that a DR write adds none (spec R170). -/
theorem exec_keeps_diagnostics (h : exec i s = .next t) (hrd : ∀ off, i ≠ .rdInv off)
    (hwr : ∀ off v, i ≠ .wrInv off v) : diagnostics t = diagnostics s := by
  obtain ⟨-, rfl⟩ | ⟨v, b, rfl, -, -, rfl⟩ := exec_next h
  · rw [diagnostics, afterQuiet_events, raised_eq_nil hrd hwr, List.append_nil, diagnostics]
  · simp [diagnostics, Event.isExchange]

/-- Only a DR write calls the exchange (spec R101, R146). -/
theorem exec_keeps_peer (h : exec i s = .next t) (hwr : ∀ v, i ≠ .wrDr v) : t.calls = s.calls ∧ t.peer = s.peer := by
  obtain rfl := eq_afterQuiet_of_ne_wrDr h hwr
  exact ⟨rfl, rfl⟩

end Sys2Proof.Machine

namespace Sys2Proof.Proofs

open Sys2Proof.Machine

/-- Settles O15: the frames of the groups of fields, one by one. -/
theorem fieldsChangeOnlyByTheirOperations : Obligations.FieldsChangeOnlyByTheirOperations := by
  intro i s t h
  exact ⟨exec_keeps_cr1 h, exec_keeps_cr2 h, exec_keeps_csctrl h, exec_keeps_dr h, exec_keeps_sr h,
    exec_keeps_irqLevel h, exec_keeps_events h, exec_keeps_diagnostics h, exec_keeps_peer h, exec_keeps_queue_platform h⟩

end Sys2Proof.Proofs
end

section
/-! PROOF. The register file's operations on SR and CR2 (spec R105, R106, R107): the flags, and the interrupt that follows. -/

namespace Sys2Proof.Machine

/-- The interrupt function after an SR write, in the bits of the old SR (spec R10, R107). -/
theorem irqFn_srAfterWrite (cr2 sr v : Word) :
    irqFn cr2 (srAfterWrite sr v) = ((cr2.getLsbD 7 && sr.getLsbD 1) || (cr2.getLsbD 6 && sr.getLsbD 0)
      || (cr2.getLsbD 5 && ((sr.getLsbD 2 && !v.getLsbD 2) || (sr.getLsbD 3 && !v.getLsbD 3)))) := by
  simp only [irqFn_eq, getLsbD_srAfterWrite]
  simp

/-- In each of SR's three values TXE is set and BSY is clear (spec R36). -/
theorem Controller.SrLegal.txe_bsy {c : Controller} (h : c.SrLegal) :
    c.sr.getLsbD 1 = true ∧ c.sr.getLsbD 7 = false := by
  obtain h | h | h := h <;> rw [h] <;> decide

/-- With TXE and TXEIE set the interrupt function is asserted (spec R10). -/
theorem irqFn_of_txe {cr2 sr : Word} (hcr2 : cr2.getLsbD 7 = true) (hsr : sr.getLsbD 1 = true) : irqFn cr2 sr = true := by
  rw [irqFn_eq, hcr2, hsr]
  rfl

end Sys2Proof.Machine

namespace Sys2Proof.Proofs

open Sys2Proof.Machine

/-- Settles O13: the new SR is `srAfterWrite`, and the interrupt function of it is read back in the old bits. -/
theorem srWriteClearsOnlyOvrAndUdr : Obligations.SrWriteClearsOnlyOvrAndUdr := by
  intro v s
  exact ⟨rfl, srAfterWrite s.ctl.sr v, irqFn s.ctl.cr2 (srAfterWrite s.ctl.sr v), rfl,
    getLsbD_srAfterWrite s.ctl.sr v, irqFn_srAfterWrite s.ctl.cr2 s.ctl.sr v⟩

/-- Settles O10: the read answers the register on the same state, and the invariant knows its three values. -/
theorem srReadHasNoSideEffect : Obligations.SrReadHasNoSideEffect := by
  intro s
  exact ⟨rfl, rfl, fun hinv => ⟨hinv.srLegal, hinv.srLegal.txe_bsy⟩⟩

/-- Settles O12: the interrupt logic runs on the new CR2, and TXE, which the invariant sets, meets the value's bit 7. -/
theorem cr2WriteStoresAndRecomputesInterrupt : Obligations.Cr2WriteStoresAndRecomputesInterrupt := by
  intro v s
  refine ⟨rfl, rfl, fun hinv htxeie t h => ?_⟩
  obtain rfl := done_eq_next.1 h
  exact irqFn_of_txe htxeie hinv.srLegal.txe_bsy.1

end Sys2Proof.Proofs
end

section
/-! PROOF. The register file's other operations (spec R102 to R104, R108 to R110): the raw reads, what a write stores, and
the accesses at offsets that are no register. -/

namespace Sys2Proof.Machine

variable {v : Word} {s t : State}

/-- The raw reads answer the register on the state as it is (spec R102, R104, R108). -/
theorem exec_rdCr1 (s : State) : exec .rdCr1 s = .next { s with result := some s.ctl.cr1 } := rfl

theorem exec_rdCr2 (s : State) : exec .rdCr2 s = .next { s with result := some s.ctl.cr2 } := rfl

theorem exec_rdCsctrl (s : State) : exec .rdCsctrl s = .next { s with result := some s.ctl.csctrl } := rfl

/-- The register writes store all 32 bits, the reserved ones too (spec R29, R103, R105, R131). -/
theorem cr1_of_exec_wrCr1 (h : exec (.wrCr1 v) s = .next t) : t.ctl.cr1 = v := by
  obtain rfl := done_eq_next.1 h
  rfl

theorem cr2_of_exec_wrCr2 (h : exec (.wrCr2 v) s = .next t) : t.ctl.cr2 = v := by
  obtain rfl := done_eq_next.1 h
  rfl

theorem csctrl_of_exec_wrCsctrl (h : exec (.wrCsctrl v) s = .next t) : t.ctl.csctrl = v := by
  obtain rfl := done_eq_next.1 h
  rfl

end Sys2Proof.Machine

namespace Sys2Proof.Proofs

open Sys2Proof.Machine

/-- Settles O9: a raw read answers the register, and a write stored its value there. -/
theorem readsReturnTheRawRegister : Obligations.ReadsReturnTheRawRegister := by
  intro s v
  exact ⟨rfl, rfl, rfl, exec_rdCr1 s, exec_rdCr2 s, exec_rdCsctrl s,
    fun t h => cr1_of_exec_wrCr1 h ▸ exec_rdCr1 t,
    fun t h => cr2_of_exec_wrCr2 h ▸ exec_rdCr2 t,
    fun t h => csctrl_of_exec_wrCsctrl h ▸ exec_rdCsctrl t⟩

/-- Settles O11: the statement is the operation's meaning, its bit numbers written out. -/
theorem cr1WriteStoresAndDerives : Obligations.Cr1WriteStoresAndDerives :=
  fun _ _ => ⟨rfl, rfl⟩

/-- Settles O14: the keys as numbers, and each access as its one diagnostic. -/
theorem invalidAccessIsADiagnosticOnly : Obligations.InvalidAccessIsADiagnosticOnly := by
  intro off v s
  exact ⟨toNat_makeKey_read off, rfl, toNat_makeKey_write off, rfl, rfl, rfl, rfl⟩

end Sys2Proof.Proofs
end

section
/-! PROOF. The chip-select logic (spec R131, R133, R134): what a CSCTRL write drives, and the gate that follows. -/

namespace Sys2Proof.Machine

/-- The gate is closed where the two chip-selects are alike: both effective, or neither (spec R133, R141). -/
theorem transferOk_of_effCs_eq {c : Controller} (h : effCs0 c = effCs1 c) : transferOk c = false :=
  Bool.eq_false_iff.2 fun hopen => ((transferOk_eq_true c).1 hopen).2.2 h

/-- A chip-select is effective after a CSCTRL write if the value's enable and active bits are both set (spec R10, R131). -/
theorem effCs0_quietCtl_wrCsctrl (v : Word) (c : Controller) :
    effCs0 (quietCtl (.wrCsctrl v) c) = (v.getLsbD 0 && v.getLsbD 4) := rfl

theorem effCs1_quietCtl_wrCsctrl (v : Word) (c : Controller) :
    effCs1 (quietCtl (.wrCsctrl v) c) = (v.getLsbD 1 && v.getLsbD 5) := rfl

/-- A CSCTRL write drives each output, active-low, by its chip-select (spec R130). -/
theorem cs0Level_quietCtl_wrCsctrl (v : Word) (c : Controller) :
    (quietCtl (.wrCsctrl v) c).cs0Level = !effCs0 (quietCtl (.wrCsctrl v) c) := rfl

theorem cs1Level_quietCtl_wrCsctrl (v : Word) (c : Controller) :
    (quietCtl (.wrCsctrl v) c).cs1Level = !effCs1 (quietCtl (.wrCsctrl v) c) := rfl

end Sys2Proof.Machine

namespace Sys2Proof.Proofs

open Sys2Proof.Machine

/-- Settles O17: the statement is the operation's meaning, its bit numbers and the chip-select logic written out. -/
theorem csctrlWriteDrivesTheChipSelects : Obligations.CsctrlWriteDrivesTheChipSelects :=
  fun _ _ => ⟨rfl, rfl⟩

/-- Settles O18: the value makes both chip-selects effective, which asserts both outputs and closes the gate. -/
theorem bothChipSelectsAssertedGatesEveryTransfer : Obligations.BothChipSelectsAssertedGatesEveryTransfer := by
  intro v w s hcs0En hcs1En hcs0Act hcs1Act
  have heff0 : effCs0 (quietCtl (.wrCsctrl v) s.ctl) = true := by
    rw [effCs0_quietCtl_wrCsctrl, hcs0En, hcs0Act, Bool.and_true]
  have heff1 : effCs1 (quietCtl (.wrCsctrl v) s.ctl) = true := by
    rw [effCs1_quietCtl_wrCsctrl, hcs1En, hcs1Act, Bool.and_true]
  refine ⟨_, exec_wrCsctrl v s, ?cs0Level, ?cs1Level, ?gated⟩
  case cs0Level => rw [afterQuiet_ctl, cs0Level_quietCtl_wrCsctrl, heff0, Bool.not_true]
  case cs1Level => rw [afterQuiet_ctl, cs1Level_quietCtl_wrCsctrl, heff1, Bool.not_true]
  case gated => exact execWrDr_gated (transferOk_of_effCs_eq (heff0.trans heff1.symm))

/-- Settles O19: the gated write only stores `dr`, and the CSCTRL write keeps all that the statement names; a DR write whose
gate is then open sends the low byte of its own value. -/
theorem selectingNeverSendsAGatedByte : Obligations.SelectingNeverSendsAGatedByte := by
  intro v w x s hclosed
  refine ⟨_, _, execWrDr_gated hclosed, (csctrlWriteDrivesTheChipSelects w _).2,
    rfl, rfl, rfl, rfl, rfl, ?nextDrWrite⟩
  case nextDrWrite =>
    intro b rest hopen hpeer
    exact ⟨_, exec_wrDr_open hopen (peerAct_of_cons hpeer _), by rw [afterOpenWrite_events, lowByte_eq]⟩

end Sys2Proof.Proofs
end

section
/-! PROOF. The two DR operations (spec R140 to R151): the gate and the peer, the net effect of a transfer and of a DR read on
SR and the interrupt, and the transfers one after another. -/

namespace Sys2Proof.Machine

/-- The gate is closed where one of its conditions fails (spec R141, R142). -/
theorem transferOk_eq_false {c : Controller} (h : c.spe = false ∨ c.mstr = false ∨ effCs0 c = effCs1 c) :
    transferOk c = false := by
  obtain hspe | hmstr | heff := h
  · rw [transferOk, hspe, Bool.false_and, Bool.false_and]
  · rw [transferOk, hmstr, Bool.and_false, Bool.false_and]
  · exact transferOk_of_effCs_eq heff

/-- With nothing lined up the peer answers the free value (spec R146(c); log 3). -/
theorem peerAct_of_nil {s : State} (h : s.peer = []) (out : Byte) :
    peerAct s out = .reply (Config.exchangeReply s.calls out s.ctl.cs0Level s.ctl.cs1Level) := by
  unfold peerAct; rw [h]

/-- A DR write whose exchange re-enters the block is refused (spec R148; log 4). -/
theorem exec_wrDr_reenters {v : Word} {r : Request} {s : State} (h : transferOk s.ctl = true)
    (hp : peerAct s (lowByte v) = .reenters r) : exec (.wrDr v) s = .refused .reentrantAccess := by
  rw [exec, execWrDr_eq, if_pos h, hp]

/-- A DR write whose exchange never returns is stuck (spec R210; log 4). -/
theorem exec_wrDr_neverReturns {v : Word} {s : State} (h : transferOk s.ctl = true)
    (hp : peerAct s (lowByte v) = .neverReturns) : exec (.wrDr v) s = .fault .exchangeNeverReturns := by
  rw [exec, execWrDr_eq, if_pos h, hp]

/-- A transfer does not close the gate: it looks at no field that a DR write assigns (spec R141). -/
@[simp] theorem transferOk_afterOpenWrite (v : Word) (b : Byte) (s : State) :
    transferOk (afterOpenWrite v b s).ctl = transferOk s.ctl := rfl

@[simp] theorem afterOpenWrite_peer (v : Word) (b : Byte) (s : State) : (afterOpenWrite v b s).peer = s.peer.tail := rfl

/-- A DR read completes from every state (spec R150). -/
theorem exec_rdDr (s : State) : exec .rdDr s = .next (afterQuiet .rdDr s) :=
  exec_of_quiet fun _ h => nomatch h

/-- R143's net effect on SR, as one expression. -/
theorem srAfterTransfer_eq (sr : Word) :
    srAfterTransfer sr = (sr ||| 0x00000003 ||| (if sr.getLsbD 0 then 0x00000008 else 0)) &&& ~~~0x00000080 := by
  have hends : ∀ j : Fin 32, (0x00000003 : Word).getLsbD j = decide (j.val = 0 ∨ j.val = 1) := by decide
  have hovr : ∀ j : Fin 32, (0x00000008 : Word).getLsbD j = decide (j.val = 3) := by decide
  have hbsy : ∀ j : Fin 32, (0x00000080 : Word).getLsbD j = decide (j.val = 7) := by decide
  apply BitVec.eq_of_getLsbD_eq
  intro k hk
  have hzero : (0 : Word).getLsbD k = false := BitVec.getLsbD_zero
  rw [getLsbD_srAfterTransfer, BitVec.getLsbD_and, BitVec.getLsbD_not, BitVec.getLsbD_or, BitVec.getLsbD_or,
    apply_ite (BitVec.getLsbD · k), hends ⟨k, hk⟩, hovr ⟨k, hk⟩, hbsy ⟨k, hk⟩, hzero]
  by_cases h01 : k = 0 ∨ k = 1
  · have h7 : k ≠ 7 := by omega
    simp [h01, h7, hk]
  by_cases h7 : k = 7
  · simp [h7]
  by_cases h3 : k = 3
  · subst h3; cases sr.getLsbD 0 <;> simp
  · simp [h01, h7, h3, hk]

/-- The mask of a DR read clears RXNE and OVR (spec R150). -/
theorem srAfterDrRead_eq (sr : Word) : srAfterDrRead sr = sr &&& 0xFFFFFFF6 := by
  have hmask : ∀ j : Fin 32, (0xFFFFFFF6 : Word).getLsbD j = !(j.val == 0 || j.val == 3) := by decide
  apply BitVec.eq_of_getLsbD_eq
  intro k hk
  rw [getLsbD_srAfterDrRead, BitVec.getLsbD_and, hmask ⟨k, hk⟩]

/-- The interrupt function after a transfer, in the bits of the old SR: TXE and RXNE are set (spec R143, R173). -/
theorem irqFn_srAfterTransfer (cr2 sr : Word) :
    irqFn cr2 (srAfterTransfer sr) = (cr2.getLsbD 7 || cr2.getLsbD 6
      || (cr2.getLsbD 5 && (sr.getLsbD 2 || sr.getLsbD 3 || sr.getLsbD 0))) := by
  simp only [irqFn_eq, getLsbD_srAfterTransfer]
  simp [Bool.or_assoc]

/-- The interrupt function after a DR read, in the bits of the old SR: RXNE and OVR are clear (spec R150, R173). -/
theorem irqFn_srAfterDrRead (cr2 sr : Word) :
    irqFn cr2 (srAfterDrRead sr) = ((cr2.getLsbD 7 && sr.getLsbD 1) || (cr2.getLsbD 5 && sr.getLsbD 2)) := by
  simp only [irqFn_eq, getLsbD_srAfterDrRead]
  simp

/-- A DR read leaves RXNE and OVR clear (spec R150). -/
theorem rxne_ovr_afterQuiet_rdDr (s : State) :
    (afterQuiet .rdDr s).ctl.sr.getLsbD 0 = false ∧ (afterQuiet .rdDr s).ctl.sr.getLsbD 3 = false := by
  simp only [afterQuiet_ctl, quietCtl, interruptLogic_sr, getLsbD_srAfterDrRead]
  simp

/-- A transfer leaves RXNE set (spec R143). -/
theorem rxne_afterOpenWrite (v : Word) (b : Byte) (s : State) : (afterOpenWrite v b s).ctl.sr.getLsbD 0 = true := by
  rw [afterOpenWrite_ctl, interruptLogic_sr, getLsbD_srAfterTransfer]
  rfl

/-- A transfer that meets RXNE set leaves OVR set (spec R144). -/
theorem ovr_afterOpenWrite {s : State} (h : s.ctl.sr.getLsbD 0 = true) (v : Word) (b : Byte) :
    (afterOpenWrite v b s).ctl.sr.getLsbD 3 = true := by
  rw [afterOpenWrite_ctl, interruptLogic_sr, getLsbD_srAfterTransfer, h, Bool.or_true]
  rfl

/-- With ERRIE and OVR set the interrupt function is asserted (spec R10). -/
theorem irqFn_of_ovr {cr2 sr : Word} (hcr2 : cr2.getLsbD 5 = true) (hsr : sr.getLsbD 3 = true) : irqFn cr2 sr = true := by
  rw [irqFn_eq, hcr2, hsr, Bool.or_true, Bool.true_and, Bool.or_true]

/-- A transfer leads from Idle to HasData and from HasData to HasData with OVR (spec R149). -/
theorem Controller.SrLegal.srAfterTransfer_eq {c : Controller} (h : c.SrLegal) :
    srAfterTransfer c.sr = if c.sr = 0x00000002 then 0x00000003 else 0x0000000B := by
  rcases h with h | h | h <;> rw [h] <;> decide

/-- A DR read leads to Idle (spec R149). -/
theorem Controller.SrLegal.srAfterDrRead_eq {c : Controller} (h : c.SrLegal) : srAfterDrRead c.sr = 0x00000002 := by
  rcases h with h | h | h <;> rw [h] <;> decide

end Sys2Proof.Machine

namespace Sys2Proof.Proofs

open Sys2Proof.Machine

/-- Settles O20: the gate is open and the peer answers `b`, lined up or free, so that the write leaves `afterOpenWrite`, whose
SR and interrupt are the statement's expressions. -/
theorem transferExchangesOneByte : Obligations.TransferExchangesOneByte := by
  intro v b s hspe hmstr heff hreply
  have hopen : transferOk s.ctl = true := by
    rw [transferOk, hspe, hmstr, effCs0, effCs1, heff]; rfl
  have hpeer : peerAct s (lowByte v) = .reply b := by
    obtain hlined | ⟨hnil, rfl⟩ := hreply
    · exact peerAct_of_head? hlined _
    · rw [peerAct_of_nil hnil, lowByte_eq]
  rw [exec_wrDr_open hopen hpeer, ← srAfterTransfer_eq, ← irqFn_srAfterTransfer, ← lowByte_eq]
  rfl

/-- Settles O21: each of the three conditions closes the gate. -/
theorem gatedDrWriteOnlyStores : Obligations.GatedDrWriteOnlyStores :=
  fun _ _ hclosed => execWrDr_gated (transferOk_eq_false hclosed)

/-- Settles O22: with the gate open a DR write does what the peer's next act makes of the exchange. -/
theorem misusedExchangeHasNoStep : Obligations.MisusedExchangeHasNoStep :=
  fun _ _ hopen =>
    ⟨fun _ hp => exec_wrDr_reenters hopen (peerAct_of_head? hp _),
      fun hp => exec_wrDr_neverReturns hopen (peerAct_of_head? hp _)⟩

/-- Settles O23: a completed operation made no exchange or is a DR write with the gate open (`exec_next`), and a step idles
or performs one operation. -/
theorem onlyAnOpenDrWriteCallsTheExchange : Obligations.OnlyAnOpenDrWriteCallsTheExchange := by
  constructor
  · intro i s t h
    obtain ⟨-, rfl⟩ | ⟨v, b, rfl, hopen, -, rfl⟩ := exec_next h
    · exact .inl ⟨exchanges_afterQuiet i s, rfl⟩
    · exact .inr ⟨v, rfl, hopen, rfl, by rw [exchanges_afterOpenWrite, lowByte_eq]; rfl⟩
  · intro s t h hnew
    obtain ⟨-, rfl⟩ | ⟨r, rest, i, hpending, hd, he⟩ := step_next h
    · exact absurd rfl hnew
    · obtain ⟨-, rfl⟩ | ⟨v, b, rfl, -, -, -⟩ := exec_next he
      · exact absurd (exchanges_afterQuiet i _) hnew
      · exact ⟨r, rest, v, hpending, hd⟩

/-- Settles O24: the mask and the two remaining terms are SR and the interrupt function after a DR read. -/
theorem drReadReturnsTheByteAndClears : Obligations.DrReadReturnsTheByteAndClears := by
  intro s
  refine ⟨rfl, ?_⟩
  rw [← srAfterDrRead_eq, ← irqFn_srAfterDrRead]
  rfl

/-- Settles O25: a DR read raises no diagnostic, so that it leaves its own next state as it is. -/
theorem secondDrReadChangesNothing : Obligations.SecondDrReadChangesNothing := by
  intro s
  have hagain : exec .rdDr (afterQuiet .rdDr s) = .next (afterQuiet .rdDr s) := by
    rw [exec_rdDr, afterQuiet_idem rfl]
  exact ⟨_, exec_rdDr s, hagain, rxne_ovr_afterQuiet_rdDr s⟩

/-- Settles O26: the first transfer leaves the gate open, the second reply first in line, and RXNE set; so the second
transfer completes and sets OVR, and its byte is the one the DR read returns. -/
theorem overrunKeepsOnlyTheNewestByte : Obligations.OverrunKeepsOnlyTheNewestByte := by
  intro v w b c rest s hopen hpeer
  have hopen' : transferOk (afterOpenWrite v b s).ctl = true := (transferOk_afterOpenWrite v b s).trans hopen
  have hrxne := rxne_afterOpenWrite v b s
  have hovr := ovr_afterOpenWrite hrxne w c
  have hpeer' : (afterOpenWrite v b s).peer = .reply c :: rest := by
    rw [afterOpenWrite_peer, hpeer, List.tail_cons]
  exact ⟨_, _, _, exec_wrDr_open hopen (peerAct_of_cons hpeer _), hrxne, rfl,
    exec_wrDr_open hopen' (peerAct_of_cons hpeer' _), hovr, rfl, fun herrie => irqFn_of_ovr herrie hovr,
    exec_rdDr _, rfl, rxne_ovr_afterQuiet_rdDr _⟩

/-- Settles O28: SR is one of its three values, on which each of the four operations is computed. -/
theorem transferStateMachine : Obligations.TransferStateMachine := by
  refine ⟨rfl, fun v s ⟨_, hsr⟩ => ?_⟩
  obtain ⟨htxe, hbsy⟩ := hsr.txe_bsy
  refine ⟨htxe, hbsy, ?transfer, ?gated, ?drRead, ?reset⟩
  case transfer =>
    intro hopen hready
    obtain ⟨b, hpeer⟩ := peerAct_of_ready hready (lowByte v)
    exact ⟨_, exec_wrDr_open hopen hpeer, hsr.srAfterTransfer_eq⟩
  case gated => exact fun hclosed => ⟨_, execWrDr_gated hclosed, rfl, rfl⟩
  case drRead => exact ⟨_, exec_rdDr s, hsr.srAfterDrRead_eq⟩
  case reset => exact ⟨_, exec_of_quiet (fun _ h => nomatch h), rfl⟩

end Sys2Proof.Proofs
end

section
/-! PROOF. The interrupt line (spec R173, R178): its three terms, and the operations that deassert it. -/

namespace Sys2Proof.Machine

/-- The interrupt function is asserted if and only if one of its three terms holds (spec R173). -/
theorem irqFn_eq_true_iff (cr2 sr : Word) :
    irqFn cr2 sr = true ↔
      (cr2.getLsbD 7 = true ∧ sr.getLsbD 1 = true) ∨ (cr2.getLsbD 6 = true ∧ sr.getLsbD 0 = true) ∨
        (cr2.getLsbD 5 = true ∧ (sr.getLsbD 2 = true ∨ sr.getLsbD 3 = true)) := by
  simp only [irqFn_eq, Bool.or_eq_true, Bool.and_eq_true, or_assoc]

/-- The interrupt function looks at bits 3:0 of SR only (spec R10). -/
theorem irqFn_congr_sr (cr2 : Word) {a b : Word} (h : ∀ k ∈ [0, 1, 2, 3], a.getLsbD k = b.getLsbD k) :
    irqFn cr2 a = irqFn cr2 b := by
  rw [irqFn_eq, irqFn_eq, h 0 (by decide), h 1 (by decide), h 2 (by decide), h 3 (by decide)]

/-- With the three enables clear the interrupt function is deasserted (spec R173). -/
theorem irqFn_of_enables_clear {cr2 : Word} (htxeie : cr2.getLsbD 7 = false) (hrxneie : cr2.getLsbD 6 = false)
    (herrie : cr2.getLsbD 5 = false) (sr : Word) : irqFn cr2 sr = false := by
  rw [irqFn_eq, htxeie, hrxneie, herrie, Bool.false_and, Bool.false_and, Bool.false_and]
  rfl

/-- In each of SR's three values UDR is clear (spec R36; log 12). -/
theorem Controller.SrLegal.udr {c : Controller} (h : c.SrLegal) : c.sr.getLsbD 2 = false := by
  obtain h | h | h := h <;> rw [h] <;> decide

/-- A DR read leaves the TXE and the UDR term, which are absent with TXEIE and UDR clear (spec R178). -/
theorem irqFn_srAfterDrRead_of_txeie_clear {cr2 sr : Word} (htxeie : cr2.getLsbD 7 = false)
    (hudr : sr.getLsbD 2 = false) : irqFn cr2 (srAfterDrRead sr) = false := by
  rw [irqFn_srAfterDrRead, htxeie, hudr, Bool.false_and, Bool.and_false, Bool.or_false]

/-- An SR write that clears OVR leaves no term with TXEIE and UDR clear and no RXNE term (spec R178). -/
theorem irqFn_srAfterWrite_of_ovr_written {cr2 sr v : Word} (htxeie : cr2.getLsbD 7 = false)
    (hrxne : cr2.getLsbD 6 = false ∨ sr.getLsbD 0 = false) (hudr : sr.getLsbD 2 = false) (hovr : v.getLsbD 3 = true) :
    irqFn cr2 (srAfterWrite sr v) = false := by
  have hterm : (cr2.getLsbD 6 && sr.getLsbD 0) = false := Bool.and_eq_false_iff.2 hrxne
  simp only [irqFn_srAfterWrite, htxeie, hterm, hudr, hovr, Bool.false_and, Bool.not_true, Bool.and_false, Bool.or_false]

end Sys2Proof.Machine

namespace Sys2Proof.Proofs

open Sys2Proof.Machine

/-- Settles O31: a consistent controller's output is the interrupt function, which is the OR of its three terms and looks at
the seven bits only. -/
theorem interruptIsTheOrOfThreeTerms : Obligations.InterruptIsTheOrOfThreeTerms := by
  constructor
  · intro c hc
    rw [hc.irqLevel_eq, irqFn_eq_true_iff]
  · intro c d hc hd hcr2 hsr
    calc c.irqLevel = irqFn c.cr2 c.sr := hc.irqLevel_eq
      _ = irqFn d.cr2 c.sr := irqFn_congr hcr2 c.sr
      _ = irqFn d.cr2 d.sr := irqFn_congr_sr d.cr2 hsr
      _ = d.irqLevel := hd.irqLevel_eq.symm

/-- Settles O33: each of the four operations completes and its interrupt logic finds no term; that UDR makes none is the
invariant's. -/
theorem softwareDeassertsTheInterrupt : Obligations.SoftwareDeassertsTheInterrupt := by
  intro s ⟨_, hsr⟩
  refine ⟨?drRead, ?srWrite, ?cr2Write, ?reset⟩
  case drRead => exact fun htxeie => ⟨_, exec_rdDr s, irqFn_srAfterDrRead_of_txeie_clear htxeie hsr.udr⟩
  case srWrite =>
    exact fun v htxeie hrxne hovr => ⟨_, exec_wrSr v s, irqFn_srAfterWrite_of_ovr_written htxeie hrxne hsr.udr hovr⟩
  case cr2Write =>
    exact fun v htxeie hrxneie herrie =>
      ⟨_, exec_of_quiet (fun _ h => nomatch h), irqFn_of_enables_clear htxeie hrxneie herrie s.ctl.sr, rfl⟩
  case reset => exact ⟨_, exec_of_quiet (fun _ h => nomatch h), rfl⟩

end Sys2Proof.Proofs
end

section
/-! PROOF. When an operation and a step stop (spec R148, R171, R172, R210): the converses of `exec_wrDr_reenters`,
`exec_wrDr_neverReturns` and `step_of_decode_error`. -/

namespace Sys2Proof.Machine

/-- An operation makes no exchange, or it is a DR write with the gate open (spec R140, R141). -/
theorem quiet_or_open (i : Instr) (s : State) : Quiet i s ∨ ∃ v, i = .wrDr v ∧ transferOk s.ctl = true := by
  by_cases h : Quiet i s
  · exact .inl h
  · exact .inr (by simpa [Quiet] using h)

/-- An act that is no reply was lined up: the free value is a reply (spec R146; log 4). -/
theorem head?_of_peerAct_ne_reply {s : State} {out : Byte} {act : PeerAct} (h : peerAct s out = act)
    (hne : ∀ b, act ≠ .reply b) : s.peer.head? = some act := by
  obtain hlined | ⟨-, hfree⟩ := peerAct_cases s out
  · rw [hlined, h]
  · exact absurd (h.symm.trans hfree) (hne _)

/-- What an operation can do (spec R171, R148, R210): it completes, or it is a DR write with the gate open whose peer
re-enters the block or never returns. -/
theorem exec_cases (i : Instr) (s : State) :
    (∃ t, exec i s = .next t) ∨
    ∃ v, i = .wrDr v ∧ transferOk s.ctl = true ∧
      ((s.peer.head? = some .neverReturns ∧ exec i s = .fault .exchangeNeverReturns) ∨
        ∃ q, s.peer.head? = some (.reenters q) ∧ exec i s = .refused .reentrantAccess) := by
  obtain hquiet | ⟨v, rfl, hopen⟩ := quiet_or_open i s
  · exact .inl ⟨_, exec_of_quiet hquiet⟩
  cases hp : peerAct s (lowByte v) with
  | reply b => exact .inl ⟨_, exec_wrDr_open hopen hp⟩
  | neverReturns =>
    exact .inr ⟨v, rfl, hopen,
      .inl ⟨head?_of_peerAct_ne_reply hp (fun _ h => nomatch h), exec_wrDr_neverReturns hopen hp⟩⟩
  | reenters q =>
    exact .inr ⟨v, rfl, hopen,
      .inr ⟨q, head?_of_peerAct_ne_reply hp (fun _ h => nomatch h), exec_wrDr_reenters hopen hp⟩⟩

theorem exec_fault {i : Instr} {s : State} {why : Fault} (h : exec i s = .fault why) :
    ∃ v, i = .wrDr v ∧ transferOk s.ctl = true ∧ s.peer.head? = some .neverReturns := by
  obtain ⟨t, ht⟩ | ⟨v, hi, hopen, ⟨hpeer, -⟩ | ⟨q, -, hq⟩⟩ := exec_cases i s
  · cases ht.symm.trans h
  · exact ⟨v, hi, hopen, hpeer⟩
  · cases hq.symm.trans h

theorem exec_refused {i : Instr} {s : State} {why : Refusal} (h : exec i s = .refused why) :
    ∃ v q, why = .reentrantAccess ∧ i = .wrDr v ∧ transferOk s.ctl = true ∧ s.peer.head? = some (.reenters q) := by
  obtain ⟨t, ht⟩ | ⟨v, hi, hopen, ⟨-, hf⟩ | ⟨q, hpeer, hq⟩⟩ := exec_cases i s
  · cases ht.symm.trans h
  · cases hf.symm.trans h
  · exact ⟨v, q, Host.Outcome.refused.inj (h.symm.trans hq), hi, hopen, hpeer⟩

/-- What a step can do (spec R6, R60, R75, R172): idle, refuse the oldest request, or perform it. -/
theorem step_cases (s : State) :
    step s = .next s ∨
    ∃ r rest, s.pending = r :: rest ∧
      ((∃ e, decode s.platform.regionSize r = .error e ∧ step s = .refused (.notAdmitted e)) ∨
        ∃ i, decode s.platform.regionSize r = .ok i ∧ step s = exec i { s with pending := rest }) := by
  cases hs : s.pending with
  | nil => exact .inl ((step_of_fetch_none (fetch_of_pending_nil hs)).trans (idle_eq s))
  | cons r rest =>
    refine .inr ⟨r, rest, rfl, ?_⟩
    cases hd : decode s.platform.regionSize r with
    | error e => exact .inl ⟨e, rfl, step_of_decode_error hs hd⟩
    | ok i => exact .inr ⟨i, rfl, step_of_decode_ok hs hd⟩

end Sys2Proof.Machine

namespace Sys2Proof.Proofs

open Sys2Proof.Machine

/-- Settles O37: an operation without an exchange completes, and a DR write with the gate open does once its peer answers,
which a peer that keeps its contract does. -/
theorem everyOperationCompletes : Obligations.EveryOperationCompletes := by
  intro i s hready
  obtain hquiet | ⟨v, rfl, hopen⟩ := quiet_or_open i s
  · exact ⟨_, exec_of_quiet hquiet⟩
  · obtain ⟨b, hpeer⟩ := peerAct_of_ready hready (lowByte v)
    exact ⟨_, exec_wrDr_open hopen hpeer⟩

/-- Settles O38: a step that stops has an oldest request; it is refused in decoding, or its operation stops, which only a DR
write with the gate open does (`exec_fault`, `exec_refused`). -/
theorem stepStopsOnlyOutsideTheContract : Obligations.StepStopsOnlyOutsideTheContract := by
  intro s
  constructor
  · intro why h
    obtain hidle | ⟨r, rest, hpending, ⟨e, -, hrefused⟩ | ⟨i, hd, hexec⟩⟩ := step_cases s
    · cases hidle.symm.trans h
    · cases hrefused.symm.trans h
    · obtain ⟨v, rfl, hopen, hpeer⟩ := exec_fault (hexec.symm.trans h)
      exact ⟨r, rest, v, hpending, hd, hopen, hpeer⟩
  · intro why h
    obtain hidle | ⟨r, rest, hpending, ⟨e, hd, hrefused⟩ | ⟨i, hd, hexec⟩⟩ := step_cases s
    · cases hidle.symm.trans h
    · exact ⟨r, rest, hpending, .inl ⟨e, Host.Outcome.refused.inj (h.symm.trans hrefused), hd⟩⟩
    · obtain ⟨v, q, hwhy, rfl, hopen, hpeer⟩ := exec_refused (hexec.symm.trans h)
      exact ⟨r, rest, hpending, .inr ⟨v, q, hwhy, hd, hopen, hpeer⟩⟩

end Sys2Proof.Proofs
end

section
/-! PROOF. Reset and hazards (spec R200 to R202, R206, R208): the reset values, the construction state, and what the invariant
and the transfer's own lemmas say of the two hazards. -/

namespace Sys2Proof.Machine

/-- RESET completes from every state, replaces the record by the reset values, and touches nothing outside it (spec R200). -/
theorem exec_reset (s : State) : exec .reset s = .next { s with result := none, ctl := Controller.reset } := by
  simp only [exec, execReset, done, resetController_eq]

/-- The construction state drives CS0 low while its own record has it ineffective (spec R33, R201). -/
theorem constructed_not_consistent : ¬ Controller.constructed.Consistent :=
  fun h => absurd h.cs0Level_eq (by decide)

/-- SR after reset is the first of its three values (spec R36, R41). -/
theorem reset_inv : Controller.reset.Inv := ⟨reset_consistent, .inl rfl⟩

/-- A run starts with an empty record and no call (spec R202; log 3, log 6). -/
theorem reset_recordSound : State.reset.RecordSound := ⟨fun _ he => (nomatch he), rfl⟩

/-- Every operation keeps the controller's invariant, admitted or not. -/
theorem exec_ctl_inv {i : Instr} {s t : State} (h : exec i s = .next t) (hs : s.ctl.Inv) : t.ctl.Inv :=
  ⟨exec_consistent h hs.consistent, exec_srLegal h hs.srLegal⟩

/-- At every observable point TXE is set, so that TXEIE alone asserts the interrupt output (spec R36, R173). -/
theorem Controller.Inv.irqLevel_of_txeie {c : Controller} (h : c.Inv) (htxeie : c.cr2.getLsbD 7 = true) :
    c.irqLevel = true := by
  obtain ⟨htxe, -⟩ := h.srLegal.txe_bsy
  rw [h.consistent.irqLevel_eq, irqFn_of_txe htxeie htxe]

end Sys2Proof.Machine

namespace Sys2Proof.Proofs

open Sys2Proof.Machine

/-- Settles O27: the peer answers some byte `b`, lined up or free; the transfer leaves it in `rx_data`, which the DR read
returns while it clears RXNE and OVR. -/
theorem readAfterTransferReturnsTheReply : Obligations.ReadAfterTransferReturnsTheReply := by
  intro v s hopen hready
  obtain ⟨b, hpeer⟩ := peerAct_of_ready hready (lowByte v)
  exact ⟨rfl, b, _, _, lowByte_eq v ▸ hpeer, exec_wrDr_open hopen hpeer, exec_rdDr _, rfl, rxne_ovr_afterQuiet_rdDr _⟩

/-- Settles O32: the invariant and TXEIE assert the line, and an operation that writes no CR2 keeps both. -/
theorem txeieHoldsTheInterruptLine : Obligations.TxeieHoldsTheInterruptLine := by
  intro s hinv htxeie
  refine ⟨hinv.irqLevel_of_txeie htxeie, fun i t hwr hreset h => ?_⟩
  have hcr2 : t.ctl.cr2 = s.ctl.cr2 := exec_keeps_cr2 h hwr hreset
  exact (exec_ctl_inv h hinv).irqLevel_of_txeie (hcr2 ▸ htxeie)

/-- Settles O29: the fifteen fields are those of `Controller.reset`, which the initial state holds too. -/
theorem resetEstablishesTheResetValues : Obligations.ResetEstablishesTheResetValues := by
  refine ⟨rfl, exec_reset, fun s t h => ?_⟩
  obtain rfl := Host.Outcome.next.inj ((exec_reset s).symm.trans h)
  rfl

/-- Settles O30: the levels contradict the record, and RESET asks nothing of the record it replaces. -/
theorem constructionStateNeedsTheReset : Obligations.ConstructionStateNeedsTheReset :=
  ⟨rfl, rfl, constructed_not_consistent, exec_reset _⟩

/-- Settles O36: the reset values meet the controller's invariant, and the record is empty. -/
theorem initialStateMeetsTheInvariant : Obligations.InitialStateMeetsTheInvariant :=
  ⟨reset_inv, reset_recordSound⟩

end Sys2Proof.Proofs
end
